-- ==== Sys2Proof/Word.lean ====
section
/-! DEFINITION. The widths the manual gives to what it treats as bits: bytes of the link and of the packets, 16-bit
counters and indices carried on the wire, and the 32-bit values of the timebase and of the wrapping counters. -/
namespace Sys2Proof

/-- One byte: a link byte, a packet byte, a sample (R13, R168). -/
abbrev Byte := BitVec 8

/-- A 16-bit wire value: a camera frame counter, a brightness index (R53). -/
abbrev Half := BitVec 16

/-- A value of the timebase, in microseconds; it wraps, and differences are taken modulo 2^32 (R111). -/
abbrev Stamp := BitVec 32

/-- A 32-bit counter that wraps: a stream counter (R73), the output frame number (R113). -/
abbrev Count := BitVec 32

end Sys2Proof
end

