-- ==== Sys2Proof/Syntax.lean ====
section
/-! DEFINITION. The commands and events of the part: one constructor for each row of spec/opcode_table.json.

Every constructor but POWER_ON carries `t`, the value of the timebase at the event ("every stamp of the part is a
timebase value", R111). A row of the request catalogue carries the TAG and the payload bytes of the request frame that
the executor takes (R168, R172); its KIND is the row's own. -/
namespace Sys2Proof

/-- A camera port, CAM0..CAM3; also the seams SEAM0..SEAM3 and the view slots VIEW0..VIEW3 are numbered so. -/
abbrev Camera := Fin 4

/-- What ails a 64-bit word of frame memory (R105): one bit in error, which is corrected, or two, which are detected and
not corrected. As an upset, what a word newly comes to hold: one further bit in error, or two. -/
inductive WordError where
  | single
  | double
  deriving DecidableEq, Repr

/-- The commands: one constructor per row of the opcode table, in its order. -/
inductive Instr where
  /-- POWER_ON (R111): PORST_N is released with the rate straps at these levels (R167). -/
  | powerOn (rate1 rate0 : Bool)
  /-- TRAINING_COMPLETE (R109): DRAM training ends; the DRAM answered, or did not. -/
  | trainingComplete (t : Stamp) (answers : Bool)
  /-- FILL_COMPLETE (R109). -/
  | fillComplete (t : Stamp)
  /-- BYTE_ARRIVAL (R169): a character on RXD, and whether its stop bit was high (R167). -/
  | byteArrival (t : Stamp) (byte : Byte) (stopHigh : Bool)
  /-- GAP_EXPIRY (R169). -/
  | gapExpiry (t : Stamp)
  /-- REPLY_SENT (R173). -/
  | replySent (t : Stamp)
  /-- UNKNOWN_KIND (R172): the executor takes a request of a KIND outside the catalogue. -/
  | unknownKind (t : Stamp) (kind tag : Byte) (payload : List Byte)
  /-- IDENTIFY (R175), KIND 01h. -/
  | identify (t : Stamp) (tag : Byte) (payload : List Byte)
  /-- GET_STATUS (R176), KIND 02h. -/
  | getStatus (t : Stamp) (tag : Byte) (payload : List Byte)
  /-- START (R115), KIND 03h. -/
  | start (t : Stamp) (tag : Byte) (payload : List Byte)
  /-- STOP (R117), KIND 04h. -/
  | stop (t : Stamp) (tag : Byte) (payload : List Byte)
  /-- RESTART (R177), KIND 05h. -/
  | restart (t : Stamp) (tag : Byte) (payload : List Byte)
  /-- SET_TIMING (R114), KIND 06h. -/
  | setTiming (t : Stamp) (tag : Byte) (payload : List Byte)
  /-- SET_CAMERA (R56), KIND 10h. -/
  | setCamera (t : Stamp) (tag : Byte) (payload : List Byte)
  /-- ENABLE_CAMERA (R78), KIND 11h. -/
  | enableCamera (t : Stamp) (tag : Byte) (payload : List Byte)
  /-- DISABLE_CAMERA (R87), KIND 12h. -/
  | disableCamera (t : Stamp) (tag : Byte) (payload : List Byte)
  /-- RESET_CAMERA (R88), KIND 13h. -/
  | resetCamera (t : Stamp) (tag : Byte) (payload : List Byte)
  /-- GET_CAMERA (R74), KIND 14h. -/
  | getCamera (t : Stamp) (tag : Byte) (payload : List Byte)
  /-- CLEAR_VIEW (R31), KIND 20h. -/
  | clearView (t : Stamp) (tag : Byte) (payload : List Byte)
  /-- LOAD_NODES (R32), KIND 21h. -/
  | loadNodes (t : Stamp) (tag : Byte) (payload : List Byte)
  /-- CLOSE_VIEW (R35), KIND 22h. -/
  | closeView (t : Stamp) (tag : Byte) (payload : List Byte)
  /-- SCAN_COMPLETE (R37, R38). -/
  | scanComplete (t : Stamp)
  /-- SELECT_VIEW naming a slot (R40), KIND 23h. -/
  | selectView (t : Stamp) (tag : Byte) (payload : List Byte)
  /-- SELECT_VIEW(NONE) (R41), KIND 23h with payload FFh. -/
  | selectViewNone (t : Stamp) (tag : Byte) (payload : List Byte)
  /-- READ_NODES (R39), KIND 24h. -/
  | readNodes (t : Stamp) (tag : Byte) (payload : List Byte)
  /-- SET_ZONE (R45), KIND 28h. -/
  | setZone (t : Stamp) (tag : Byte) (payload : List Byte)
  /-- SET_BODY (R46), KIND 29h. -/
  | setBody (t : Stamp) (tag : Byte) (payload : List Byte)
  /-- SET_FILL (R47), KIND 2Ah. -/
  | setFill (t : Stamp) (tag : Byte) (payload : List Byte)
  /-- SET_HARMONISE (R142), KIND 30h. -/
  | setHarmonise (t : Stamp) (tag : Byte) (payload : List Byte)
  /-- SET_GAIN (R143), KIND 31h. -/
  | setGain (t : Stamp) (tag : Byte) (payload : List Byte)
  /-- GET_FAULTS (R156), KIND 38h. -/
  | getFaults (t : Stamp) (tag : Byte) (payload : List Byte)
  /-- CLEAR_FAULTS (R155), KIND 39h. -/
  | clearFaults (t : Stamp) (tag : Byte) (payload : List Byte)
  /-- SET_FAULT_POLICY (R150), KIND 3Ah. -/
  | setFaultPolicy (t : Stamp) (tag : Byte) (payload : List Byte)
  /-- FETCH_NOTICES (R162), KIND 40h. -/
  | fetchNotices (t : Stamp) (tag : Byte) (payload : List Byte)
  /-- SET_NOTICE_POLICY (R159), KIND 41h. -/
  | setNoticePolicy (t : Stamp) (tag : Byte) (payload : List Byte)
  /-- GET_HISTORY (R165), KIND 42h. -/
  | getHistory (t : Stamp) (tag : Byte) (payload : List Byte)
  /-- FRAME_OPEN (R58): packet type 01h; its payload, if any, is ignored (R51). -/
  | frameOpen (t : Stamp) (cam : Camera) (payload : List Byte)
  /-- INFO (R60): packet type 04h. -/
  | info (t : Stamp) (cam : Camera) (payload : List Byte)
  /-- LINE (R61): packet type 08h. -/
  | line (t : Stamp) (cam : Camera) (payload : List Byte)
  /-- FOREIGN_PACKET (R62): a packet of any other type code. -/
  | foreignPacket (t : Stamp) (cam : Camera) (type : Byte) (payload : List Byte)
  /-- FRAME_CLOSE (R63): packet type 02h; its payload, if any, is ignored (R51). -/
  | frameClose (t : Stamp) (cam : Camera) (payload : List Byte)
  /-- SILENCE_EXPIRY (R86). -/
  | silenceExpiry (t : Stamp) (cam : Camera)
  /-- OPEN_REQUEST (R97): the request at the head of this camera's write FIFO is applied to its ring. -/
  | openRequest (t : Stamp) (cam : Camera)
  /-- ABANDON_REQUEST (R98). -/
  | abandonRequest (t : Stamp) (cam : Camera)
  /-- PUBLISH_REQUEST (R99). -/
  | publishRequest (t : Stamp) (cam : Camera)
  /-- DROP_READY_REQUEST (R100). -/
  | dropReadyRequest (t : Stamp) (cam : Camera)
  /-- ARBITER_GRANT (R94): `ask` is the camera whose taps the composition engine asks for, if it waits (log entry 8). -/
  | arbiterGrant (t : Stamp) (ask : Camera)
  /-- WRITER_TRANSFER_COMPLETE (R93). -/
  | writerTransferComplete (t : Stamp)
  /-- COMPOSITION_TRANSFER_COMPLETE (R105): `upsets` names the words in which the DRAM has come to hold further bits in
  error, beside those that a read has met before (log entry 9). -/
  | compositionTransferComplete (t : Stamp) (upsets : List (Nat × WordError))
  /-- LINE_COMPLETE (R23). -/
  | lineComplete (t : Stamp)
  /-- OUTPUT_FRAME_START (R116). -/
  | outputFrameStart (t : Stamp)
  /-- LINE_PERIOD_START (R125). -/
  | linePeriodStart (t : Stamp)
  /-- FRAME_END (R122). -/
  | frameEnd (t : Stamp)
  deriving DecidableEq, Repr

end Sys2Proof
end

