-- ==== Sys2Proof/Decode.lean ====
section
/-! DEFINITION. The commands that words spell by the table's bits, and the commands that packets of a camera port and
characters on RXD are.
spec/opcode_table.json gives bits to no row: the commands of this block come as link frames, packets and events, whose
payloads Machine/Link.lean and Machine/Receivers.lean read. -/
namespace Sys2Proof

/-- No row of the table has bits, so no word spells a command. -/
def decodeTableWord (_nbits _w : Nat) : Option Instr := none

/-- The number that eight levels carry, least significant bit first (R167). -/
def levelsByte (b0 b1 b2 b3 b4 b5 b6 b7 : Bool) : Byte :=
  BitVec.ofNat 8 (b0.toNat + 2 * b1.toNat + 4 * b2.toNat + 8 * b3.toNat + 16 * b4.toNat + 32 * b5.toNat + 64 * b6.toNat +
    128 * b7.toNat)

/-- The command that the levels of RXD in ten bit times are: a start bit, which is low, eight data bits, high for 1,
least significant first (log entry 20), no parity, and the stop bit, at whose end the character arrives (R167). -/
def characterCommand (t : Stamp) : List Bool → Option Instr
  | [false, b0, b1, b2, b3, b4, b5, b6, b7, stop] => some (.byteArrival t (levelsByte b0 b1 b2 b3 b4 b5 b6 b7) stop)
  | _ => none

/-- The packets of a camera port: the four types that the receiver knows, and any other (R51). -/
inductive PacketType where
  | frameOpen
  | frameClose
  | info
  | line
  | foreign
  deriving DecidableEq, Repr

/-- The packet type of a type code (R51). -/
def packetType (code : Byte) : PacketType :=
  if code = 0x01#8 then .frameOpen
  else if code = 0x02#8 then .frameClose
  else if code = 0x04#8 then .info
  else if code = 0x08#8 then .line
  else .foreign

/-- The command that a packet is on its arrival at a port: its bytes from SOP to EOP are the type code and then the
payload (R51). Without a byte there is no packet. -/
def packetCommand (t : Stamp) (cam : Camera) : List Byte → Option Instr
  | [] => none
  | code :: payload =>
    some <| match packetType code with
      | .frameOpen => .frameOpen t cam payload
      | .frameClose => .frameClose t cam payload
      | .info => .info t cam payload
      | .line => .line t cam payload
      | .foreign => .foreignPacket t cam code payload

end Sys2Proof
end

