-- ==== Sys2Proof/Config.lean ====
section
/-! DEFINITION. What the part fixes once and for all: the numbers of the manual (0.5 and the rules cited), and the two
values the manual leaves open. -/
namespace Sys2Proof.Config

/-- Columns of the canvas (R1). -/
def canvasWidth : Nat := 720
/-- Lines of the canvas (R1). -/
def canvasHeight : Nat := 960
/-- Columns of nodes; a node's index is row × 46 + column (R3). -/
def nodeColumns : Nat := 46
/-- Nodes of a view slot (R3, R27). -/
def nodeCount : Nat := 2806
/-- Cell columns and cell rows (R2). -/
def cellColumns : Nat := 45
def cellRows : Nat := 60
/-- Complete lines that the line FIFO holds (R24). -/
def lineFifoDepth : Nat := 4
/-- Lines for which a write FIFO has space (R67). -/
def writeFifoLines : Nat := 2
/-- The most bytes of one writer transfer (R93). -/
def writerTransferBytes : Nat := 256
/-- Bytes of one row of a frame slot, and bytes of a frame slot (R92). -/
def rowBytes : Nat := 3840
def slotBytes : Nat := 4915200
/-- 64-bit words of frame memory (R92). -/
def memoryWords : Nat := 16777216
/-- Training of the DRAM, and the whole of a successful initialisation, in microseconds from its beginning (R108). -/
def trainingTime : Stamp := 1000#32
def initialisationTime : Stamp := 150000#32
/-- The validation scan, in microseconds (R35). -/
def scanTime : Stamp := 3000#32
/-- The gap that ends a partial request frame, in microseconds (R169). -/
def gapTime : Stamp := 100#32
/-- From START to the first output frame start, in microseconds (R115). -/
def startLead : Stamp := 1000#32
/-- One output line period, in microseconds (R125). -/
def linePeriod : Stamp := 32#32
/-- From the output frame start to the frame end, in microseconds (R122). -/
def frameEndOffset : Stamp := 30848#32
/-- The last line period of a frame; the frame end is its end (R125). -/
def lastActivePeriod : Nat := 963
/-- Lead line periods before active line 0 (R125). -/
def leadPeriods : Nat := 4
/-- Records of the notice queue, and summaries of the frame history (R161, R165). -/
def noticeQueueDepth : Nat := 32
def historyDepth : Nat := 8
/-- Frames of the inbox, and replies of each kind that the outbox holds (R171, R173). -/
def inboxDepth : Nat := 4
def outboxExecutorDepth : Nat := 2
def outboxFramerDepth : Nat := 8
/-- The longest payload of a request frame (R168). -/
def payloadMax : Nat := 512

/-- FREE VALUE (log entry 3): how many whole 64-bit words of a writer transfer stand in the memory already when the
transfer is cut short by a release or by RESTART (R101, R104). The manual says only that the rest is not written. It is
read at `State.free`, which counts the uses. -/
opaque cutShortWords : Nat → Nat

/-- FREE VALUE (log entry 7): the line 0..959 that a POISON fault carries where the engine composes no line when the
transfer completes (R106, R147): its line was abandoned or its frame has ended meanwhile. It is read at `State.free`,
which counts the uses. -/
opaque poisonLine : Nat → Fin 960

end Sys2Proof.Config
end

