-- ==== Sys2Proof/Machine/Index.lean ====
section
/-! DEFINITION. Fixed families of like things: four per camera, seam or view slot, three slots of a ring; and finite
maps keyed by a number, held as lists in rising order of their keys. -/
namespace Sys2Proof.Machine

/-- Four like things, one per camera, seam, view slot or zone number 0..3. -/
structure Quad (α : Type) where
  c0 : α
  c1 : α
  c2 : α
  c3 : α
  deriving DecidableEq, Repr

def Quad.get {α : Type} (q : Quad α) (i : Fin 4) : α :=
  match i with
  | 0 => q.c0
  | 1 => q.c1
  | 2 => q.c2
  | 3 => q.c3

def Quad.ofFn {α : Type} (f : Fin 4 → α) : Quad α := ⟨f 0, f 1, f 2, f 3⟩

def Quad.all {α : Type} (a : α) : Quad α := ⟨a, a, a, a⟩

def Quad.set {α : Type} (q : Quad α) (i : Fin 4) (a : α) : Quad α :=
  Quad.ofFn fun j => if j = i then a else q.get j

def Quad.map {α β : Type} (q : Quad α) (f : α → β) : Quad β := ⟨f q.c0, f q.c1, f q.c2, f q.c3⟩

def Quad.toList {α : Type} (q : Quad α) : List α := [q.c0, q.c1, q.c2, q.c3]

/-- The four numbers in order, CAM0 first. -/
def cameras : List Camera := [0, 1, 2, 3]

/-- The lowest number whose thing satisfies `p`. -/
def Quad.find {α : Type} (q : Quad α) (p : α → Bool) : Option (Fin 4) :=
  cameras.find? fun i => p (q.get i)

/-- Three like things: the slots 0..2 of a frame ring (R95). -/
structure Trio (α : Type) where
  s0 : α
  s1 : α
  s2 : α
  deriving DecidableEq, Repr

def Trio.get {α : Type} (q : Trio α) (i : Fin 3) : α :=
  match i with
  | 0 => q.s0
  | 1 => q.s1
  | 2 => q.s2

def Trio.set {α : Type} (q : Trio α) (i : Fin 3) (a : α) : Trio α :=
  match i with
  | 0 => { q with s0 := a }
  | 1 => { q with s1 := a }
  | 2 => { q with s2 := a }

def Trio.all {α : Type} (a : α) : Trio α := ⟨a, a, a⟩

def Trio.map {α β : Type} (q : Trio α) (f : α → β) : Trio β := ⟨f q.s0, f q.s1, f q.s2⟩

def Trio.toList {α : Type} (q : Trio α) : List α := [q.s0, q.s1, q.s2]

/-- The lowest-numbered slot that satisfies `p`. -/
def Trio.find {α : Type} (q : Trio α) (p : α → Bool) : Option (Fin 3) :=
  [(0 : Fin 3), 1, 2].find? fun i => p (q.get i)

/-- The entry under a key. -/
def keyGet {α : Type} : List (Nat × α) → Nat → Option α
  | [], _ => none
  | (a, v) :: r, k => if a = k then some v else keyGet r k

/-- Put an entry under a key, replacing the one that stands there, in rising order. -/
def keyPut {α : Type} : List (Nat × α) → Nat → α → List (Nat × α)
  | [], k, v => [(k, v)]
  | (a, w) :: r, k, v =>
    if a = k then (k, v) :: r else if k < a then (k, v) :: (a, w) :: r else (a, w) :: keyPut r k v

/-- Remove what stands under a key. -/
def keyDel {α : Type} : List (Nat × α) → Nat → List (Nat × α)
  | [], _ => []
  | (a, w) :: r, k => if a = k then keyDel r k else (a, w) :: keyDel r k

/-- Every key of the list is above `k`. -/
def keysAbove {α : Type} (k : Nat) (l : List (Nat × α)) : Bool := l.all fun e => decide (k < e.1)

/-- The canonical form: keys strictly rising. -/
def keysRising {α : Type} : List (Nat × α) → Bool
  | [] => true
  | (a, _) :: r => keysAbove a r && keysRising r

end Sys2Proof.Machine
end

