-- ==== Sys2Proof/Machine/State.lean ====
section
/-! DEFINITION. The whole state of the part as plain data, block by block, and the state after power-on reset. -/
namespace Sys2Proof.Machine

/-! ### Frames of the link -/

/-- A whole, CRC-checked request frame (R168), as the inbox holds it. -/
structure Frame where
  kind : Byte
  tag : Byte
  payload : List Byte
  deriving DecidableEq, Repr

/-- The status codes of replies (R172). -/
inductive Status where
  | ok
  | adjusted
  | badFrame
  | badLength
  | unknownKind
  | badValue
  | wrongState
  | notReady
  | busy
  deriving DecidableEq, Repr

/-- A reply of the outbox: the request's KIND and TAG, the status, the data, and whether the executor placed it
(otherwise the framer did) (R173). -/
structure Reply where
  kind : Byte
  tag : Byte
  status : Status
  data : List Byte
  executor : Bool
  deriving DecidableEq, Repr

/-- The receive framer and what it has stored of the frame it receives (R169, R170). -/
inductive Framer where
  /-- HUNT. -/
  | hunt
  /-- HEADER, with the header bytes stored so far. -/
  | header (got : List Byte)
  /-- PAYLOAD, with LEN, KIND, TAG and the payload bytes stored so far. -/
  | payload (len : Nat) (kind tag : Byte) (got : List Byte)
  /-- TRAILER, with the whole payload and the CRC bytes stored so far. -/
  | trailer (len : Nat) (kind tag : Byte) (body got : List Byte)
  /-- DRAIN, with KIND and TAG as far as they have arrived. -/
  | drain (got : List Byte)
  deriving DecidableEq, Repr

/-- A CLOSE_VIEW that occupies the executor: its TAG, the slot, and the start of the scan (R35). -/
structure Closing where
  tag : Byte
  slot : Fin 4
  start : Stamp
  deriving DecidableEq, Repr

/-- The link controller (R167, R169, R171, R172, R173). -/
structure LC where
  /-- The rate straps as sampled at power-on (R167). -/
  rate1 : Bool
  rate0 : Bool
  framer : Framer
  /-- Arrival of the last byte inside a frame; the gap timer runs from it (R169). -/
  lastByte : Stamp
  inbox : List Frame
  /-- The executor is occupied by a CLOSE_VIEW, or idle (R172). -/
  closing : Option Closing
  outbox : List Reply
  deriving DecidableEq, Repr

/-! ### Faults and notices -/

/-- The ten fault kinds, in code order 1..10 (R146). -/
inductive FaultKind where
  | lineLength
  | struct
  | infoCrc
  | period
  | overflow
  | skip
  | poison
  | silence
  | eccFixed
  | underrun
  deriving DecidableEq, Repr

/-- The sources of faults (R146). -/
inductive FaultSource where
  | cam (c : Camera)
  | output
  deriving DecidableEq, Repr

/-- A fault as a block hands it to the fault unit (R147). -/
structure FaultReport where
  source : FaultSource
  kind : FaultKind
  stamp : Stamp
  counter : Option Half
  line : Option Nat
  slot : Option (Fin 3)
  deriving DecidableEq, Repr

/-- One thing for each fault kind. -/
structure PerFault (α : Type) where
  lineLength : α
  struct : α
  infoCrc : α
  period : α
  overflow : α
  skip : α
  poison : α
  silence : α
  eccFixed : α
  underrun : α
  deriving DecidableEq, Repr

/-- The policy of one fault kind (R149); a severity is ADVISORY or CONTAINING. -/
structure FaultPolicy where
  masked : Bool
  containing : Bool
  deriving DecidableEq, Repr

/-- An occupied first-fault record (R152). -/
structure FirstFault where
  fault : FaultReport
  more : Bool
  deriving DecidableEq, Repr

/-- The fault unit (R148, R149, R152, R153). -/
structure FU where
  /-- The sticky fault sets of CAM0..CAM3. -/
  sticky : Quad (PerFault Bool)
  /-- The sticky fault set of OUTPUT. -/
  stickyOut : PerFault Bool
  policy : PerFault FaultPolicy
  first : Option FirstFault
  /-- The withheld set as last evaluated, and the output frame that evaluated it. -/
  withheld : Quad Bool
  withheldFrame : Count
  deriving DecidableEq, Repr

/-- The nine notice kinds, in code order 1..9 (R158). -/
inductive NoticeKind where
  | qualified
  | holdoverEntered
  | qualificationLost
  | stale
  | fault
  | viewTaken
  | outputStopped
  | memoryReady
  | memoryFault
  deriving DecidableEq, Repr

/-- The sources of notices (R158). -/
inductive NoticeSource where
  | cam (c : Camera)
  | output
  | view (v : Fin 4)
  | part
  deriving DecidableEq, Repr

/-- A notice record (R158). -/
structure Notice where
  kind : NoticeKind
  source : NoticeSource
  detail : Nat
  first : Stamp
  last : Stamp
  count : Nat
  priority : Fin 4
  deriving DecidableEq, Repr

/-- The policy of one notice kind (R159). -/
structure NoticePolicy where
  masked : Bool
  priority : Fin 4
  deriving DecidableEq, Repr

/-- One thing for each notice kind. -/
structure PerNotice (α : Type) where
  qualified : α
  holdoverEntered : α
  qualificationLost : α
  stale : α
  fault : α
  viewTaken : α
  outputStopped : α
  memoryReady : α
  memoryFault : α
  deriving DecidableEq, Repr

/-- A camera's disposition in a frame summary (R164). -/
inductive Disposition where
  | composed
  | disabled
  | notQualified
  | withheld
  | stale
  | cut
  deriving DecidableEq, Repr

/-- The per-camera record of a frame summary (R164). -/
structure CamSummary where
  disposition : Disposition
  counter : Option Half
  age : Option Stamp
  repeated : Bool
  coverage : Nat
  gain : Nat
  deriving DecidableEq, Repr

/-- A frame summary (R164). -/
structure Summary where
  frameNo : Count
  start : Stamp
  view : Option (Fin 4)
  body : BitVec 4
  seamCounts : Quad Nat
  underruns : Nat
  cams : Quad CamSummary
  deriving DecidableEq, Repr

/-- The notice unit (R158, R159, R162, R163, R165). -/
structure NQ where
  queue : List Notice
  lost : Bool
  policy : PerNotice NoticePolicy
  threshold : Fin 4
  /-- Polarity: active-high, or else active-low. -/
  activeHigh : Bool
  /-- The attention line is active (R163). -/
  attention : Bool
  history : List Summary
  deriving DecidableEq, Repr

/-! ### Camera receivers -/

/-- A set camera descriptor (R55); the line period is in units of 1/16 microsecond. -/
structure Descriptor where
  width : Nat
  height : Nat
  linePeriod : Nat
  nominal : Nat
  tolerance : Nat
  silenceUs : Nat
  silenceLines : Nat
  acquire : Nat
  lose : Nat
  deriving DecidableEq, Repr

/-- The five fields of a good INFO packet (R53). -/
structure Info where
  counter : Half
  brightness : Half
  exposure : Half
  gainCode : Byte
  temperature : Byte
  deriving DecidableEq, Repr

/-- The record of a frame's first failure (R57). -/
structure Failure where
  kind : FaultKind
  stamp : Stamp
  line : Option Nat
  deriving DecidableEq, Repr

/-- The open-frame record (R57). -/
structure OpenFrame where
  openStamp : Stamp
  info : Option Info
  next : Nat
  failure : Option Failure
  deriving DecidableEq, Repr

/-- An entry of a write FIFO (R67). -/
inductive FifoEntry where
  /-- A line: its index, its samples, and how many of its bytes are written already (R93). -/
  | line (index : Nat) (data : List Byte) (written : Nat)
  | openReq
  | abandonReq
  | publishReq (close : Stamp) (counter : Half)
  | dropReadyReq
  deriving DecidableEq, Repr

/-- The ten stream counters (R73). -/
structure StreamCounters where
  opened : Count
  good : Count
  badInfoCrc : Count
  badStructure : Count
  badLineLength : Count
  badOverflow : Count
  badPeriod : Count
  skipped : Count
  published : Count
  abandoned : Count
  deriving DecidableEq, Repr

/-- The qualification states (R76). -/
inductive Qual where
  | disabled
  | noSignal
  | acquiring
  | locked
  | holdover
  deriving DecidableEq, Repr

/-- One camera receiver (R55, R57, R67, R70, R73, R76, R84, R85). Its reception state is read from the open-frame
record: OUTSIDE without one, RECEIVING while it holds no failure, DISCARDING once it does. -/
structure Receiver where
  descriptor : Option Descriptor
  qual : Qual
  goodRun : Nat
  badRun : Nat
  /-- The silence threshold, fixed by ENABLE_CAMERA (R84). -/
  threshold : Nat
  /-- The last-arrival stamp (R85). -/
  lastArrival : Stamp
  openFrame : Option OpenFrame
  prevOpen : Option Stamp
  fifo : List FifoEntry
  lastInfo : Option Info
  bprev : Option Half
  lastPublished : Option Half
  counters : StreamCounters
  deriving DecidableEq, Repr

/-! ### Frame memory controller -/

/-- A slot record of a frame ring (R95); each state holds the fields the manual gives it. -/
inductive SlotRecord where
  | free
  | filling (opened : Stamp)
  | ready (opened closed : Stamp) (counter : Half)
  | held (opened closed : Stamp) (counter : Half) (poisoned released : Bool)
  deriving DecidableEq, Repr

/-- A frame ring: three slot records (R95). -/
abbrev Ring := Trio SlotRecord

/-- The transfer that the DRAM is serving (R93). -/
inductive Transfer where
  /-- The writer of this camera: up to 256 bytes of the line at the head of its write FIFO. -/
  | writer (c : Camera)
  /-- The composition engine: the taps of one camera for one pixel, with the HELD slot read, that slot's frame counter,
  the output frame, line and column of the pixel, the coordinate, and the camera's source size. -/
  | taps (c : Camera) (slot : Fin 3) (counter : Half) (frameNo : Count) (line x : Nat) (u v : Int) (w h : Nat)
  deriving DecidableEq, Repr

/-- How far memory initialisation has come, with the stamp of its beginning (R108). -/
inductive InitPhase where
  | idle
  | training (start : Stamp)
  | filling (start : Stamp)
  deriving DecidableEq, Repr

/-- The frame memory controller (R92, R94, R95, R105, R108). -/
structure FMC where
  rings : Quad Ring
  lastServed : Camera
  transfer : Option Transfer
  init : InitPhase
  /-- The bytes of frame memory, in the canonical form of `memWf`: an unlisted address reads as 0. -/
  mem : List Host.Cell
  /-- The 64-bit words in error, by word number, in rising order (R105). -/
  wordErrors : List (Nat × WordError)
  deriving DecidableEq, Repr

/-! ### View store -/

/-- What a node record holds for one camera (R27). -/
structure NodeCam where
  coord : Option (Int × Int)
  weight : Nat
  deriving DecidableEq, Repr

/-- A node record (R27). -/
abbrev NodeRecord := Quad NodeCam

/-- The states of a view slot (R28). -/
inductive ViewState where
  | empty
  | loading
  | closing
  | ready
  | pending
  | active
  deriving DecidableEq, Repr

/-- A view slot (R27): its state, and its node table and written-node map in one: the records of the written nodes by
node index, in rising order. A node that is not listed is unwritten and holds no coordinate and weight 0. -/
structure ViewSlot where
  state : ViewState
  nodes : List (Nat × NodeRecord)
  deriving DecidableEq, Repr

/-- The pending selection (R29). -/
inductive Selection where
  | nonePending
  | slot (v : Fin 4)
  | withdraw
  deriving DecidableEq, Repr

/-- An exclusion zone (R44). -/
structure Zone where
  enabled : Bool
  i0 : Nat
  i1 : Nat
  j0 : Nat
  j1 : Nat
  cond : Fin 4
  /-- The sense: active when clear, or else active when set. -/
  whenClear : Bool
  deriving DecidableEq, Repr

/-- Luma and the two chroma values of a pixel, or a fill colour. -/
structure Yuv where
  y : Byte
  cb : Byte
  cr : Byte
  deriving DecidableEq, Repr

/-- The view store (R27, R29, R44, R46, R47). -/
structure VS where
  slots : Quad ViewSlot
  selection : Selection
  /-- The four zones of each camera. -/
  zones : Quad (Quad Zone)
  /-- The pending body set and the body set in force, BC0 lowest. -/
  pendingBody : BitVec 4
  body : BitVec 4
  fill : Yuv
  deriving DecidableEq, Repr

/-! ### Pacing unit -/

/-- The run states (R112). -/
inductive RunState where
  | startup
  | memoryFault
  | stopped
  | running
  | stopping
  deriving DecidableEq, Repr

/-- The pacing unit, but for the timebase (R112, R113). -/
structure PU where
  run : RunState
  compare : Stamp
  periodInForce : Nat
  pendingPeriod : Nat
  maxAge : Nat
  frameNo : Count
  deriving DecidableEq, Repr

/-! ### Composition engine -/

/-- What a NEW or REPEAT take gives the frame (R102, R120): slot, frame counter, age, repeat flag and source size. -/
structure Taken where
  slot : Fin 3
  counter : Half
  age : Stamp
  repeated : Bool
  width : Nat
  height : Nat
  deriving DecidableEq, Repr

/-- A camera's start class and take outcome (R119, R120); the camera set holds the cameras that are `taken`. -/
inductive StartClass where
  | disabled
  | notQualified
  | withheld
  | stale (age : Option Stamp)
  | taken (k : Taken)
  deriving DecidableEq, Repr

/-- The composition set (R4, R118), with the frame's number and start stamp. -/
structure CompSet where
  frameNo : Count
  start : Stamp
  view : Option (Fin 4)
  body : BitVec 4
  zones : Quad (Quad Zone)
  fill : Yuv
  gains : Quad Nat
  withheld : Quad Bool
  cams : Quad StartClass
  deriving DecidableEq, Repr

/-- The statistics of one seam (R133). -/
structure SeamSums where
  n : Nat
  sa : Nat
  sb : Nat
  deriving DecidableEq, Repr

/-- Line accumulators or frame totals (R133, R134). -/
structure Totals where
  seams : Quad SeamSums
  coverage : Quad Nat
  deriving DecidableEq, Repr

/-- The composition states (R22). -/
inductive CompState where
  | idle
  | composing
  | full
  | finished
  deriving DecidableEq, Repr

/-- The composition engine (R22, R23). -/
structure CE where
  state : CompState
  /-- The line being computed in COMPOSING, the line to be begun next in FULL. -/
  line : Nat
  set : Option CompSet
  cut : Quad Bool
  /-- The pixels of the current line computed so far, from the left. -/
  pixels : List Yuv
  /-- The samples fetched so far for the pixel being computed. -/
  samples : List (Camera × Yuv)
  acc : Totals
  totals : Totals
  deriving DecidableEq, Repr

/-! ### Output port -/

/-- A packed output pair (R20). -/
structure OutPair where
  y0 : Byte
  y1 : Byte
  cb : Byte
  cr : Byte
  deriving DecidableEq, Repr

/-- The output port (R24, R125 to R128). -/
structure OP where
  idle : Bool
  /-- The output line counter. -/
  counter : Nat
  /-- The stamp from which line periods are counted: a frame start, or START. -/
  origin : Stamp
  /-- The line periods are counted from a frame start. -/
  inFrame : Bool
  /-- The line FIFO: complete lines with their numbers. -/
  fifo : List (Nat × List OutPair)
  /-- The line buffer: the line that is being emitted. -/
  emitting : Option (List OutPair)
  underruns : Nat
  deriving DecidableEq, Repr

/-! ### Harmonisation unit -/

/-- The settings record (R132). -/
structure HarmSettings where
  auto : Bool
  stepLimit : Nat
  gmin : Nat
  gmax : Nat
  nmin : Nat
  relief : Bool
  deriving DecidableEq, Repr

/-- The outcomes of an update (R137, R141). -/
inductive UpdateOutcome where
  | updated
  | heldNoSeam
  | heldOwnZero
  | heldOff
  deriving DecidableEq, Repr

/-- The per-camera part of the last update record (R144); `move` holds T and the limited step of an UPDATED camera. -/
structure CamUpdate where
  coverage : Nat
  outcome : UpdateOutcome
  oldGain : Nat
  reliefUsed : Bool
  move : Option (Nat × Int)
  newGain : Nat
  deriving DecidableEq, Repr

/-- The last update record (R144): each seam with its usability. -/
structure UpdateRecord where
  frameNo : Count
  auto : Bool
  seams : Quad (SeamSums × Bool)
  cams : Quad CamUpdate
  deriving DecidableEq, Repr

/-- The harmonisation unit (R131, R132, R144). -/
structure HU where
  gains : Quad Nat
  relief : Quad Bool
  settings : HarmSettings
  last : Option UpdateRecord
  deriving DecidableEq, Repr

/-! ### The part -/

/-- The state of the part and the queue of the commands that wait. -/
structure State where
  /-- The timebase of the pacing unit (R111). -/
  timebase : Stamp
  cr : Quad Receiver
  fmc : FMC
  vs : VS
  pu : PU
  ce : CE
  op : OP
  hu : HU
  fu : FU
  nq : NQ
  lc : LC
  /-- The model's own: how many free values have been used (log entries 3 and 7). -/
  free : Nat
  /-- The model's own: the commands that wait, first in, first out. -/
  pending : List Instr
  deriving DecidableEq, Repr

/-- Reasons to stop with a fault. There are none: the manual describes an outcome for every command in every state, and
an event that the state excludes does not come about (log entry 2). Safe: nothing can raise it. -/
inductive Fault where
  deriving DecidableEq, Repr

/-- Reasons to refuse a command. -/
inductive Refusal where
  /-- Raised by `exec` alone, for a command without a meaning. No arm raises it now. Safe. -/
  | notModelled (mnemonic : String)
  deriving DecidableEq, Repr

/-! ### The state after power-on reset -/

/-- The power-on zone (R44). -/
def Zone.reset : Zone := ⟨false, 0, 0, 0, 0, 0, false⟩

/-- An EMPTY view slot with nothing written (R27). -/
def ViewSlot.reset : ViewSlot := ⟨.empty, []⟩

def StreamCounters.zero : StreamCounters := ⟨0, 0, 0, 0, 0, 0, 0, 0, 0, 0⟩

/-- A receiver at power-on (R75, R76); the threshold and the last-arrival stamp are log entry 4. -/
def Receiver.reset : Receiver :=
  { descriptor := none, qual := .disabled, goodRun := 0, badRun := 0, threshold := 0, lastArrival := 0#32
    openFrame := none, prevOpen := none, fifo := [], lastInfo := none, bprev := none, lastPublished := none
    counters := StreamCounters.zero }

def SeamSums.zero : SeamSums := ⟨0, 0, 0⟩

def Totals.zero : Totals := ⟨.all SeamSums.zero, .all 0⟩

/-- The frame memory controller at power-on: training begins at timebase 0 (R94, R95, R108). -/
def FMC.reset : FMC :=
  { rings := .all (.all .free), lastServed := 3, transfer := none, init := .training 0#32, mem := [], wordErrors := [] }

/-- The view store at power-on (R50). -/
def VS.reset : VS :=
  { slots := .all .reset, selection := .nonePending, zones := .all (.all .reset), pendingBody := 0#4, body := 0#4
    fill := ⟨16#8, 128#8, 128#8⟩ }

/-- The pacing unit at power-on (R113). -/
def PU.reset : PU :=
  { run := .startup, compare := 0#32, periodInForce := 33333, pendingPeriod := 33333, maxAge := 50000, frameNo := 0#32 }

/-- The composition engine at power-on (R26). -/
def CE.reset : CE :=
  { state := .idle, line := 0, set := none, cut := .all false, pixels := [], samples := [], acc := .zero, totals := .zero }

/-- The output port at power-on (R128). -/
def OP.reset : OP :=
  { idle := true, counter := 0, origin := 0#32, inFrame := false, fifo := [], emitting := none, underruns := 0 }

/-- The harmonisation unit at power-on (R145). -/
def HU.reset : HU :=
  { gains := .all 256, relief := .all false, settings := ⟨true, 4, 192, 384, 1024, true⟩, last := none }

def PerFault.all {α : Type} (a : α) : PerFault α := ⟨a, a, a, a, a, a, a, a, a, a⟩

/-- The fault unit at power-on: every kind unmasked, POISON alone CONTAINING (R149, R157). -/
def FU.reset : FU :=
  { sticky := .all (.all false), stickyOut := .all false
    policy := { PerFault.all ⟨false, false⟩ with poison := ⟨false, true⟩ }
    first := none, withheld := .all false, withheldFrame := 0#32 }

/-- The notice unit at power-on, with the priorities of R158 (R159, R166). -/
def NQ.reset : NQ :=
  { queue := [], lost := false
    policy :=
      { qualified := ⟨false, 1⟩, holdoverEntered := ⟨false, 0⟩, qualificationLost := ⟨false, 2⟩, stale := ⟨false, 1⟩
        fault := ⟨false, 2⟩, viewTaken := ⟨false, 0⟩, outputStopped := ⟨false, 1⟩, memoryReady := ⟨false, 3⟩
        memoryFault := ⟨false, 3⟩ }
    threshold := 1, activeHigh := false, attention := false, history := [] }

/-- The link controller at power-on with both rate straps low (R178; the straps are log entry 4). -/
def LC.reset : LC :=
  { rate1 := false, rate0 := false, framer := .hunt, lastByte := 0#32, inbox := [], closing := none, outbox := [] }

/-- The part right after PORST_N is released: STARTUP, with memory initialisation begun (R111, R108). -/
def State.reset : State :=
  { timebase := 0#32, cr := .all .reset, fmc := .reset, vs := .reset, pu := .reset, ce := .reset, op := .reset
    hu := .reset, fu := .reset, nq := .reset, lc := .reset, free := 0, pending := [] }

end Sys2Proof.Machine
end

