-- ==== Sys2Proof/Machine/Bytes.lean ====
section
/-! DEFINITION. Byte order, sign extension and the CRC: everything between bytes and values, and the
levels that carry bytes on TXD (R52, R54, R168, R173, R179). -/
namespace Sys2Proof.Machine

/-- A number in `n` bytes, low byte first (R179). -/
def leBytes : Nat → Nat → List Byte
  | 0, _ => []
  | n + 1, v => BitVec.ofNat 8 v :: leBytes n (v / 256)

/-- The number that bytes carry, low byte first (R179). -/
def leNat : List Byte → Nat
  | [] => 0
  | b :: r => b.toNat + 256 * leNat r

/-- A signed number in `n` bytes, two's complement, low byte first (R179). -/
def leInt (n : Nat) (v : Int) : List Byte := leBytes n (v % 256 ^ n).toNat

/-- The signed number that three bytes carry (R179). -/
def signed24 (bs : List Byte) : Int := (BitVec.ofNat 24 (leNat bs)).toInt

/-- The number in `n` bytes of a payload from offset `o`. -/
def field (p : List Byte) (o n : Nat) : Nat := leNat ((p.drop o).take n)

/-- One byte for no or yes (R179). -/
def flagByte (b : Bool) : Byte := if b then 1#8 else 0#8

/-- A byte that carries one of two values; any other byte carries none (R179). -/
def flagOf (n : Nat) : Option Bool := if n = 0 then some false else if n = 1 then some true else none

/-- The number of one of four things, or none (R30, R45, R56). -/
def indexOf (n : Nat) : Option (Fin 4) := if h : n < 4 then some ⟨n, h⟩ else none

/-- One bit of the CRC register: shift left, and add the generator 1021h if the bit shifted out differs from the data
bit (R54). -/
def crcBit (r : Half) (d : Bool) : Half := if r.msb == d then r <<< 1 else (r <<< 1) ^^^ 0x1021#16

/-- One byte of the CRC, most significant bit first (R54). -/
def crcByte (r : Half) (b : Byte) : Half :=
  [7, 6, 5, 4, 3, 2, 1, 0].foldl (fun r i => crcBit r (b.getLsbD i)) r

/-- The CRC of R54. -/
def crc (bs : List Byte) : Half := bs.foldl crcByte 0xFFFF#16

/-- The bytes that the CRC of a request frame covers: LEN, KIND, TAG and the payload (R168). -/
def framed (len : Nat) (kind tag : Byte) (body : List Byte) : List Byte := leBytes 2 len ++ kind :: tag :: body

/-- A request frame as the host sends it (R168). -/
def requestBytes (f : Frame) : List Byte :=
  let covered := framed f.payload.length f.kind f.tag f.payload
  0xC3#8 :: covered ++ leBytes 2 (crc covered).toNat

def statusCode : Status → Byte
  | .ok => 0x00#8
  | .adjusted => 0x01#8
  | .badFrame => 0x02#8
  | .badLength => 0x03#8
  | .unknownKind => 0x04#8
  | .badValue => 0x05#8
  | .wrongState => 0x06#8
  | .notReady => 0x07#8
  | .busy => 0x08#8

/-- A reply frame as it leaves on TXD (R173). -/
def replyBytes (r : Reply) : List Byte :=
  let covered := leBytes 2 r.data.length ++ (r.kind + 0x80#8) :: r.tag :: statusCode r.status :: r.data
  0x3C#8 :: covered ++ leBytes 2 (crc covered).toNat

/-- The levels of TXD in the ten bit times of one byte: a start bit, which is low, eight data bits, high for 1, least
significant first (log entry 20), no parity, and one stop bit, which is high (R167). -/
def characterLevels (b : Byte) : List Bool :=
  [false, b.getLsbD 0, b.getLsbD 1, b.getLsbD 2, b.getLsbD 3, b.getLsbD 4, b.getLsbD 5, b.getLsbD 6, b.getLsbD 7, true]

/-- The levels of TXD over the whole of a reply, bit time by bit time: its bytes one behind the other with no pause
(R167, R173; log entry 20). -/
def replyLevels (r : Reply) : List Bool := (replyBytes r).flatMap characterLevels

/-- The link's bit rate in bit/s under the rate straps (R167). -/
def bitRate (rate1 rate0 : Bool) : Nat :=
  match rate1, rate0 with
  | false, false => 1000000
  | false, true => 2000000
  | true, false => 4000000
  | true, true => 500000

/-- The link's byte time in nanoseconds under the rate straps (R167). -/
def byteTimeNs (rate1 rate0 : Bool) : Nat :=
  match rate1, rate0 with
  | false, false => 10000
  | false, true => 5000
  | true, false => 2500
  | true, true => 20000

end Sys2Proof.Machine
end

