-- ==== Sys2Proof/Machine/Ops.lean ====
section
/-! DEFINITION. The named updates of the state, one per block, the arrival of an event at its stamp, and finite maps by
fault kind and notice kind. -/
namespace Sys2Proof.Machine

def State.setTimebase (s : State) (t : Stamp) : State := { s with timebase := t }
def State.setReceivers (s : State) (q : Quad Receiver) : State := { s with cr := q }
def State.setFmc (s : State) (x : FMC) : State := { s with fmc := x }
def State.setVs (s : State) (x : VS) : State := { s with vs := x }
def State.setPu (s : State) (x : PU) : State := { s with pu := x }
def State.setCe (s : State) (x : CE) : State := { s with ce := x }
def State.setOp (s : State) (x : OP) : State := { s with op := x }
def State.setHu (s : State) (x : HU) : State := { s with hu := x }
def State.setFu (s : State) (x : FU) : State := { s with fu := x }
def State.setNq (s : State) (x : NQ) : State := { s with nq := x }
def State.setLc (s : State) (x : LC) : State := { s with lc := x }
def State.setFree (s : State) (n : Nat) : State := { s with free := n }
def State.setPending (s : State) (p : List Instr) : State := { s with pending := p }

/-- Replace one receiver. -/
def State.setReceiver (s : State) (c : Camera) (r : Receiver) : State := s.setReceivers (s.cr.set c r)

/-- Replace the frame ring of one camera. -/
def State.setRing (s : State) (c : Camera) (r : Ring) : State :=
  s.setFmc { s.fmc with rings := s.fmc.rings.set c r }

/-- An event takes place at stamp `t`: the timebase has counted on to it (R111). -/
def State.arrive (s : State) (t : Stamp) : State := s.setTimebase t

/-- The run states in which ports, rings and output work (R112). -/
def RunState.operational : RunState → Bool
  | .stopped | .running | .stopping => true
  | .startup | .memoryFault => false

/-- The port is enabled: its qualification state is other than DISABLED (R76). -/
def Qual.enabled : Qual → Bool
  | .disabled => false
  | _ => true

/-- The silence timing runs, and every packet arrival restarts it (R85). -/
def Qual.timed : Qual → Bool
  | .acquiring | .locked | .holdover => true
  | .disabled | .noSignal => false

/-- The stream is qualified: LOCKED or HOLDOVER (R76). -/
def Qual.qualified : Qual → Bool
  | .locked | .holdover => true
  | _ => false

/-- A value raised to the low limit or lowered to the high one (0.3). -/
def clampNat (v lo hi : Nat) : Nat := if v < lo then lo else if hi < v then hi else v

def clampInt (v lo hi : Int) : Int := if v < lo then lo else if hi < v then hi else v

def PerFault.get {α : Type} (p : PerFault α) : FaultKind → α
  | .lineLength => p.lineLength
  | .struct => p.struct
  | .infoCrc => p.infoCrc
  | .period => p.period
  | .overflow => p.overflow
  | .skip => p.skip
  | .poison => p.poison
  | .silence => p.silence
  | .eccFixed => p.eccFixed
  | .underrun => p.underrun

def PerFault.ofFn {α : Type} (f : FaultKind → α) : PerFault α :=
  ⟨f .lineLength, f .struct, f .infoCrc, f .period, f .overflow, f .skip, f .poison, f .silence, f .eccFixed, f .underrun⟩

def PerFault.set {α : Type} (p : PerFault α) (k : FaultKind) (a : α) : PerFault α :=
  PerFault.ofFn fun j => if j = k then a else p.get j

/-- The fault kinds in code order (R146). -/
def faultKinds : List FaultKind :=
  [.lineLength, .struct, .infoCrc, .period, .overflow, .skip, .poison, .silence, .eccFixed, .underrun]

def PerNotice.get {α : Type} (p : PerNotice α) : NoticeKind → α
  | .qualified => p.qualified
  | .holdoverEntered => p.holdoverEntered
  | .qualificationLost => p.qualificationLost
  | .stale => p.stale
  | .fault => p.fault
  | .viewTaken => p.viewTaken
  | .outputStopped => p.outputStopped
  | .memoryReady => p.memoryReady
  | .memoryFault => p.memoryFault

def PerNotice.ofFn {α : Type} (f : NoticeKind → α) : PerNotice α :=
  ⟨f .qualified, f .holdoverEntered, f .qualificationLost, f .stale, f .fault, f .viewTaken, f .outputStopped,
    f .memoryReady, f .memoryFault⟩

/-- The notice kinds in code order (R158). -/
def noticeKinds : List NoticeKind :=
  [.qualified, .holdoverEntered, .qualificationLost, .stale, .fault, .viewTaken, .outputStopped, .memoryReady,
    .memoryFault]

end Sys2Proof.Machine
end

