-- ==== Sys2Proof/Machine/Flags.lean ====
section
/-! DEFINITION. The codes of enumerated values on the link (R146, R158, R172, R179, R180). -/
namespace Sys2Proof.Machine

/-- Fault kind codes 1..10 (R146). -/
def FaultKind.code : FaultKind → Nat
  | .lineLength => 1
  | .struct => 2
  | .infoCrc => 3
  | .period => 4
  | .overflow => 5
  | .skip => 6
  | .poison => 7
  | .silence => 8
  | .eccFixed => 9
  | .underrun => 10

/-- The fault kind with a code; code 0 names none (R146). -/
def faultKindOf (n : Nat) : Option FaultKind := faultKinds.find? fun k => k.code == n

/-- The kinds whose severity is fixed at ADVISORY (R146, R150). -/
def FaultKind.fixedSeverity : FaultKind → Bool
  | .silence | .eccFixed | .underrun => true
  | _ => false

/-- Notice kind codes 1..9 (R158). -/
def NoticeKind.code : NoticeKind → Nat
  | .qualified => 1
  | .holdoverEntered => 2
  | .qualificationLost => 3
  | .stale => 4
  | .fault => 5
  | .viewTaken => 6
  | .outputStopped => 7
  | .memoryReady => 8
  | .memoryFault => 9

/-- Source codes: CAM0..CAM3 0..3, OUTPUT 4, VIEW0..VIEW3 8..11, PART 15 (R179). -/
def NoticeSource.code : NoticeSource → Nat
  | .cam c => c.val
  | .output => 4
  | .view v => 8 + v.val
  | .part => 15

def FaultSource.code : FaultSource → Nat
  | .cam c => c.val
  | .output => 4

/-- A fault's source as the source of its FAULT notice (R151). -/
def FaultSource.notice : FaultSource → NoticeSource
  | .cam c => .cam c
  | .output => .output

def RunState.code : RunState → Nat
  | .startup => 0
  | .memoryFault => 1
  | .stopped => 2
  | .running => 3
  | .stopping => 4

def Qual.code : Qual → Nat
  | .disabled => 0
  | .noSignal => 1
  | .acquiring => 2
  | .locked => 3
  | .holdover => 4

def SlotRecord.code : SlotRecord → Nat
  | .free => 0
  | .filling _ => 1
  | .ready _ _ _ => 2
  | .held _ _ _ _ _ => 3

def ViewState.code : ViewState → Nat
  | .empty => 0
  | .loading => 1
  | .closing => 2
  | .ready => 3
  | .pending => 4
  | .active => 5

/-- 00h for NONE PENDING, 01h for WITHDRAW, 10h + s for SLOT s (R179). -/
def Selection.code : Selection → Nat
  | .nonePending => 0
  | .withdraw => 1
  | .slot v => 16 + v.val

def CompState.code : CompState → Nat
  | .idle => 0
  | .composing => 1
  | .full => 2
  | .finished => 3

def UpdateOutcome.code : UpdateOutcome → Nat
  | .updated => 0
  | .heldNoSeam => 1
  | .heldOwnZero => 2
  | .heldOff => 3

def Disposition.code : Disposition → Nat
  | .composed => 0
  | .disabled => 1
  | .notQualified => 2
  | .withheld => 3
  | .stale => 4
  | .cut => 5

/-- The marks of one source as two bytes: kind code k at bit k - 1 (R174). -/
def stickyWord (p : PerFault Bool) : Nat :=
  (faultKinds.map fun k => if p.get k then 2 ^ (k.code - 1) else 0).sum

/-- One flag per camera, CAM0 at bit 0 (R174, R176). -/
def cameraBits (q : Quad Bool) : Nat := (cameras.map fun c => if q.get c then 2 ^ c.val else 0).sum

end Sys2Proof.Machine
end

