-- ==== Sys2Proof/Machine/Notices.lean ====
section
/-! DEFINITION. The notice queue, the attention line and the frame history (Chapter 9). -/
namespace Sys2Proof.Machine

/-- The attention line is active while some queued record's stored priority reaches the threshold (R163). -/
def attentionDue (q : List Notice) (threshold : Fin 4) : Bool := q.any fun r => decide (threshold ≤ r.priority)

/-- Re-evaluate the attention line (R163). -/
def NQ.evaluate (q : NQ) : NQ := { q with attention := attentionDue q.queue q.threshold }

/-- The level of the attention line (R163): true is high. -/
def NQ.level (q : NQ) : Bool := q.attention == q.activeHigh

/-- The record's key is this kind, source and detail (R158). -/
def Notice.hasKey (r : Notice) (k : NoticeKind) (src : NoticeSource) (d : Nat) : Bool :=
  r.kind == k && r.source == src && r.detail == d

/-- A repeat counted in the record (R160). -/
def Notice.again (r : Notice) (t : Stamp) : Notice := { r with count := min 255 (r.count + 1), last := t }

/-- Coalesce a notice into the record with its key (R160). -/
def coalesce (k : NoticeKind) (src : NoticeSource) (d : Nat) (t : Stamp) : List Notice → List Notice
  | [] => []
  | r :: rest => if r.hasKey k src d then r.again t :: rest else r :: coalesce k src d t rest

/-- Place a record directly behind the last one whose stored priority is at least its own, or at the head (R161). -/
def placeNotice : List Notice → Notice → List Notice
  | [], n => [n]
  | r :: rest, n =>
    if (r :: rest).any fun x => decide (n.priority ≤ x.priority) then r :: placeNotice rest n else n :: r :: rest

/-- Remove the record that stands last among those of priority `p` (R161). -/
def removeLastOf (p : Fin 4) : List Notice → List Notice
  | [] => []
  | r :: rest =>
    if rest.any fun x => x.priority == p then r :: removeLastOf p rest
    else if r.priority == p then rest else r :: rest

/-- The lowest stored priority in the queue; 3 for an empty one. -/
def lowestPriority : List Notice → Fin 4
  | [] => 3
  | r :: rest => if r.priority < lowestPriority rest then r.priority else lowestPriority rest

/-- Insert a new record (R161). -/
def NQ.insert (q : NQ) (n : Notice) : NQ :=
  if q.queue.length < Config.noticeQueueDepth then { q with queue := placeNotice q.queue n }.evaluate
  else if lowestPriority q.queue < n.priority then
    { q with queue := placeNotice (removeLastOf (lowestPriority q.queue) q.queue) n, lost := true }.evaluate
  else { q with lost := true }

/-- Raise a notice (R160). -/
def NQ.raise (q : NQ) (k : NoticeKind) (src : NoticeSource) (d : Nat) (t : Stamp) : NQ :=
  let p := q.policy.get k
  if p.masked then q
  else if q.queue.any fun r => r.hasKey k src d then { q with queue := coalesce k src d t q.queue }
  else q.insert ⟨k, src, d, t, t, 1, p.priority⟩

/-- A block raises a notice. -/
def State.raise (s : State) (k : NoticeKind) (src : NoticeSource) (d : Nat) (t : Stamp) : State :=
  s.setNq (s.nq.raise k src d t)

/-- Fetch up to `n` records: they leave the queue, the lost flag is cleared, the line is re-evaluated (R162). -/
def NQ.fetch (q : NQ) (n : Nat) : NQ := { q with queue := q.queue.drop n, lost := false }.evaluate

/-- Append a summary, dropping the oldest of eight first (R165). -/
def appendSummary (h : List Summary) (x : Summary) : List Summary :=
  (if h.length < Config.historyDepth then h else h.drop (h.length + 1 - Config.historyDepth)) ++ [x]

/-- RESTART: queue, lost flag and history emptied, policy kept (R166). -/
def NQ.restart (q : NQ) : NQ := { q with queue := [], lost := false, history := [] }.evaluate

end Sys2Proof.Machine
end

