-- ==== Sys2Proof/Machine/Faults.lean ====
section
/-! DEFINITION. Recording a fault, the sticky sets, the first-fault record and withholding (Chapter 8). -/
namespace Sys2Proof.Machine

/-- The sticky set of a source (R148). -/
def FU.marks (f : FU) : FaultSource → PerFault Bool
  | .cam c => f.sticky.get c
  | .output => f.stickyOut

/-- Set the mark of a source and kind (R148). -/
def FU.mark (f : FU) (src : FaultSource) (k : FaultKind) : FU :=
  match src with
  | .cam c => { f with sticky := f.sticky.set c ((f.sticky.get c).set k true) }
  | .output => { f with stickyOut := f.stickyOut.set k true }

/-- Capture a fault in the first-fault record, or set the more-faults flag of an occupied one (R152). -/
def capture (first : Option FirstFault) (r : FaultReport) : Option FirstFault :=
  match first with
  | none => some ⟨r, false⟩
  | some x => some { x with more := true }

/-- The fault unit's part of a recording: the mark always, the capture if the kind is unmasked (R151). -/
def FU.record (f : FU) (r : FaultReport) : FU :=
  let f' := f.mark r.source r.kind
  if (f.policy.get r.kind).masked then f' else { f' with first := capture f'.first r }

/-- A block hands a fault to the fault unit: mark, capture, FAULT notice, in this order (R151). -/
def State.handFault (s : State) (r : FaultReport) : State :=
  let s' := s.setFu (s.fu.record r)
  if (s.fu.policy.get r.kind).masked then s' else s'.raise .fault r.source.notice r.kind.code r.stamp

/-- Some mark of the set is of an unmasked CONTAINING kind (R153). -/
def containing (p : PerFault FaultPolicy) (m : PerFault Bool) : Bool :=
  faultKinds.any fun k => m.get k && !(p.get k).masked && (p.get k).containing

/-- The withheld set as an output frame start evaluates it (R153). -/
def FU.evaluate (f : FU) (frameNo : Count) : FU :=
  { f with withheld := f.sticky.map (containing f.policy), withheldFrame := frameNo }

/-- Clear the marks whose source and kind the masks name (R155). -/
def FU.clear (f : FU) (sources kinds : Nat) (clearFirst : Bool) : FU :=
  let keep := fun (i : Nat) (m : PerFault Bool) =>
    PerFault.ofFn fun k => m.get k && !(sources.testBit i && kinds.testBit (k.code - 1))
  { f with
    sticky := .ofFn fun c => keep c.val (f.sticky.get c)
    stickyOut := keep 4 f.stickyOut
    first := if clearFirst then none else f.first }

/-- RESET_CAMERA clears the camera's sticky set (R157). -/
def FU.resetCamera (f : FU) (c : Camera) : FU := { f with sticky := f.sticky.set c (.all false) }

/-- RESTART: marks, first-fault record and withheld set emptied, policy kept (R157). -/
def FU.restart (f : FU) : FU :=
  { f with sticky := .all (.all false), stickyOut := .all false, first := none, withheld := .all false, withheldFrame := 0#32 }

end Sys2Proof.Machine
end

