-- ==== Sys2Proof/Machine/Memory.lean ====
section
/-! DEFINITION. Frame memory (R92, R105): its bytes, its words in error, and where a row of a slot lies. -/
namespace Sys2Proof.Machine

/-- What an unlisted address reads as: the zero data that the fill writes (R108). -/
def memDefault : Byte := 0#8

/-- Read one byte. -/
def memRead (m : List Host.Cell) (a : Nat) : Byte := (keyGet m a).getD memDefault

/-- Write one byte and keep the canonical form. -/
def memWrite (m : List Host.Cell) (a : Nat) (b : Byte) : List Host.Cell :=
  if b = memDefault then keyDel m a else keyPut m a b

/-- Write consecutive bytes. -/
def memWriteBytes (m : List Host.Cell) (a : Nat) : List Byte → List Host.Cell
  | [] => m
  | b :: r => memWriteBytes (memWrite m a b) (a + 1) r

/-- The canonical form: addresses strictly rising, and no entry equal to what an unlisted address reads as. -/
def memWf (m : List Host.Cell) : Bool := keysRising m && m.all fun e => e.2 != memDefault

/-- The first byte of a frame slot. The manual places no slot; camera by camera from address 0 is log entry 5. -/
def slotBase (c : Camera) (slot : Fin 3) : Nat := (c.val * 3 + slot.val) * Config.slotBytes

/-- The first byte of a row of a frame slot (R92). -/
def rowBase (c : Camera) (slot : Fin 3) (row : Nat) : Nat := slotBase c slot + row * Config.rowBytes

/-- The 64-bit words that `n` bytes from an address touch. -/
def wordsOf (a n : Nat) : List Nat :=
  if n = 0 then [] else (List.range ((a + n - 1) / 8 + 1 - a / 8)).map (· + a / 8)

/-- A write lays down fresh data and a fresh code: the words written are in error no longer (R105). -/
def clearErrors (e : List (Nat × WordError)) (ws : List Nat) : List (Nat × WordError) := ws.foldl keyDel e

/-- The bits in error that a word's entry stands for: none, one, or two (R105). -/
def errorBits : Option WordError → Nat
  | none => 0
  | some .single => 1
  | some .double => 2

/-- What ails a word once it has come to hold further bits in error: one bit and one bit more are two, which the code
detects and does not correct (R105). Three bits and more, to which the manual gives no outcome, are counted with the two
(log entry 9). -/
def worse : Option WordError → WordError → WordError
  | none, x => x
  | some _, _ => .double

/-- The bits that have newly come to be in error in the words read join those in error already, which stay so until the
word is written (R105). -/
def addErrors (e : List (Nat × WordError)) (ws : List Nat) (upsets : List (Nat × WordError)) : List (Nat × WordError) :=
  (upsets.filter fun u => ws.contains u.1).foldl (fun e u => keyPut e u.1 (worse (keyGet e u.1) u.2)) e

/-- Some word read is in this kind of error. -/
def anyError (e : List (Nat × WordError)) (ws : List Nat) (k : WordError) : Bool := ws.any fun w => keyGet e w == some k

end Sys2Proof.Machine
end

