-- ==== Sys2Proof/Machine/Rings.lean ====
section
/-! DEFINITION. The operations on a frame ring (R97 to R104, R106). -/
namespace Sys2Proof.Machine

def SlotRecord.isFree : SlotRecord → Bool
  | .free => true
  | _ => false

def SlotRecord.isFilling : SlotRecord → Bool
  | .filling _ => true
  | _ => false

def SlotRecord.isReady : SlotRecord → Bool
  | .ready _ _ _ => true
  | _ => false

def SlotRecord.isHeld : SlotRecord → Bool
  | .held _ _ _ _ _ => true
  | _ => false

/-- Turn every slot that satisfies `p` to FREE; its fields are dropped with it (R95). -/
def freeWhere (p : SlotRecord → Bool) (r : Ring) : Ring := r.map fun x => if p x then .free else x

/-- An open request claims the FILLING slot, or the lowest-numbered FREE one (R97). -/
def ringOpen (r : Ring) (t : Stamp) : Ring :=
  match Trio.find r SlotRecord.isFilling with
  | some i => Trio.set r i (.filling t)
  | none =>
    match Trio.find r SlotRecord.isFree with
    | some i => Trio.set r i (.filling t)
    | none => r

/-- An abandon request frees the FILLING slot (R98). -/
def ringAbandon (r : Ring) : Ring := freeWhere SlotRecord.isFilling r

/-- A publish request frees the READY slot and makes the FILLING slot READY; without a FILLING slot it has no effect
(R99). -/
def ringPublish (r : Ring) (close : Stamp) (counter : Half) : Ring :=
  match Trio.find r SlotRecord.isFilling with
  | none => r
  | some i =>
    match Trio.get r i with
    | .filling o => Trio.set (freeWhere SlotRecord.isReady r) i (.ready o close counter)
    | _ => r

/-- A drop-ready request frees the READY slot (R100). -/
def ringDropReady (r : Ring) : Ring := freeWhere SlotRecord.isReady r

/-- Mark a HELD slot released (R101). -/
def SlotRecord.release : SlotRecord → SlotRecord
  | .held o c n p _ => .held o c n p true
  | x => x

/-- A release frees the FILLING and READY slots and marks the HELD slot released (R101). -/
def ringRelease (r : Ring) : Ring :=
  (freeWhere (fun x => x.isFilling || x.isReady) r).map SlotRecord.release

/-- The output stop frees the HELD slot (R104). -/
def ringStop (r : Ring) : Ring := freeWhere SlotRecord.isHeld r

/-- Mark a slot poisoned, if it is HELD (R106). -/
def ringPoison (r : Ring) (i : Fin 3) : Ring :=
  match Trio.get r i with
  | .held o c n _ rel => Trio.set r i (.held o c n true rel)
  | _ => r

/-- The outcome of a take (R102). -/
inductive TakeOutcome where
  | notComposable
  | taken (repeated : Bool) (slot : Fin 3) (counter : Half) (age : Stamp)
  | stale (age : Option Stamp)
  deriving DecidableEq, Repr

/-- A HELD slot that is neither poisoned nor released (R102). -/
def SlotRecord.canRepeat : SlotRecord → Bool
  | .held _ _ _ false false => true
  | _ => false

/-- The age of a candidate at the frame start (R102). -/
def ageOf (t close : Stamp) : Stamp := t - close

/-- The take of one ring at an output frame start (R102). -/
def ringTake (r : Ring) (composable : Bool) (t : Stamp) (maxAge : Nat) : Ring × TakeOutcome :=
  let freed := ringStop r
  if composable then
    match Trio.find r SlotRecord.isReady with
    | some i =>
      match Trio.get r i with
      | .ready o c n =>
        if (ageOf t c).toNat ≤ maxAge then (Trio.set freed i (.held o c n false false), .taken false i n (ageOf t c))
        else (freed, .stale (some (ageOf t c)))
      | _ => (freed, .stale none)
    | none =>
      match Trio.find r SlotRecord.canRepeat with
      | some i =>
        match Trio.get r i with
        | .held _ c n _ _ =>
          if (ageOf t c).toNat ≤ maxAge then (r, .taken true i n (ageOf t c)) else (freed, .stale (some (ageOf t c)))
        | _ => (freed, .stale none)
      | none => (freed, .stale none)
  else (freed, .notComposable)

end Sys2Proof.Machine
end

