-- ==== Sys2Proof/Machine/FrameMemory.lean ====
section
/-! DEFINITION. The frame memory controller's own work: writer transfers, ring requests at the head of a write FIFO,
release, and memory initialisation (Chapter 5). -/
namespace Sys2Proof.Machine

/-- The next writer transfer of a line entry: up to 256 of its bytes not yet written (R93). -/
def nextChunk (data : List Byte) (written : Nat) : List Byte := (data.drop written).take Config.writerTransferBytes

/-- Store bytes into a row of the FILLING slot with fresh ECC (R93, R96, R105). -/
def FMC.store (m : FMC) (c : Camera) (row offset : Nat) (bytes : List Byte) : FMC :=
  match Trio.find (m.rings.get c) SlotRecord.isFilling with
  | some i =>
    let a := rowBase c i row + offset
    { m with mem := memWriteBytes m.mem a bytes, wordErrors := clearErrors m.wordErrors (wordsOf a bytes.length) }
  | none => m

/-- The head entry of a write FIFO is a line with bytes not yet written: its writer waits for the DRAM (R93). -/
def writerWaits (r : Receiver) : Bool :=
  match r.fifo with
  | .line _ data written :: _ => written < data.length
  | _ => false

/-- The FIFO once the chunk in transfer is written: the last chunk takes the line entry out (R93). -/
def afterChunk : List FifoEntry → List FifoEntry
  | .line k data written :: rest =>
    let done := written + (nextChunk data written).length
    if done < data.length then .line k data done :: rest else rest
  | l => l

/-- Where and what the writer of a camera writes in its transfer: row, offset and bytes. -/
def chunkOf (r : Receiver) : Option (Nat × Nat × List Byte) :=
  match r.fifo with
  | .line k data written :: _ => some (k, written, nextChunk data written)
  | _ => none

/-- A writer transfer of this camera is cut short: a free number of its words, from its first byte on, is written, the
rest is not (R101, log entry 3). -/
def State.cutWriter (s : State) (c : Camera) : State :=
  if s.fmc.transfer == some (.writer c) then
    match chunkOf (s.cr.get c) with
    | some (row, offset, bytes) =>
      (s.setFmc { s.fmc.store c row offset (bytes.take (8 * Config.cutShortWords s.free)) with transfer := none }).setFree
        (s.free + 1)
    | none => s.setFmc { s.fmc with transfer := none }
  else s

/-- DISABLE_CAMERA and RESET_CAMERA release the camera's ring (R101). -/
def State.releaseRing (s : State) (c : Camera) : State :=
  let s' := s.cutWriter c
  s'.setRing c (ringRelease (s'.fmc.rings.get c))

/-- Apply the ring request at the head of a camera's write FIFO, if it is the one asked for (R96). -/
def applyRequest (c : Camera) (t : Stamp) (op : FifoEntry → Option (Ring → Ring)) (s : State) :
    Host.Outcome State Fault Refusal :=
  match (s.cr.get c).fifo with
  | [] => .next (s.arrive t)
  | e :: rest =>
    match op e with
    | some f =>
      .next (((s.arrive t).setReceiver c { s.cr.get c with fifo := rest }).setRing c (f (s.fmc.rings.get c)))
    | none => .next (s.arrive t)

/-- OPEN_REQUEST (R97). -/
def execOpenRequest (t : Stamp) (cam : Camera) (s : State) : Host.Outcome State Fault Refusal :=
  applyRequest cam t (fun e => if e = .openReq then some fun r => ringOpen r t else none) s

/-- ABANDON_REQUEST (R98). -/
def execAbandonRequest (t : Stamp) (cam : Camera) (s : State) : Host.Outcome State Fault Refusal :=
  applyRequest cam t (fun e => if e = .abandonReq then some ringAbandon else none) s

/-- The ring operation of a publish request (R99). -/
def publishOp : FifoEntry → Option (Ring → Ring)
  | .publishReq close counter => some fun r => ringPublish r close counter
  | _ => none

/-- PUBLISH_REQUEST (R99). -/
def execPublishRequest (t : Stamp) (cam : Camera) (s : State) : Host.Outcome State Fault Refusal :=
  applyRequest cam t publishOp s

/-- DROP_READY_REQUEST (R100). -/
def execDropReadyRequest (t : Stamp) (cam : Camera) (s : State) : Host.Outcome State Fault Refusal :=
  applyRequest cam t (fun e => if e = .dropReadyReq then some ringDropReady else none) s

/-- WRITER_TRANSFER_COMPLETE: the chunk is in the memory; the last one of a line takes the entry out of the FIFO (R93). -/
def execWriterTransferComplete (t : Stamp) (s : State) : Host.Outcome State Fault Refusal :=
  match s.fmc.transfer with
  | some (.writer c) =>
    match chunkOf (s.cr.get c) with
    | some (row, offset, bytes) =>
      .next (((s.arrive t).setReceiver c { s.cr.get c with fifo := afterChunk (s.cr.get c).fifo }).setFmc
        { s.fmc.store c row offset bytes with transfer := none })
    | none => .next ((s.arrive t).setFmc { s.fmc with transfer := none })
  | _ => .next (s.arrive t)

/-- TRAINING_COMPLETE: 1,000 microseconds after initialisation began, the fill begins, or the part goes to MEMORY_FAULT
with its notice (R108, R109). -/
def execTrainingComplete (t : Stamp) (answers : Bool) (s : State) : Host.Outcome State Fault Refusal :=
  match s.fmc.init with
  | .training start =>
    if t = start + Config.trainingTime then
      if answers then .next ((s.arrive t).setFmc { s.fmc with init := .filling start })
      else
        .next ((((s.arrive t).setFmc { s.fmc with init := .idle }).setPu { s.pu with run := .memoryFault }).raise
          .memoryFault .part 0 t)
    else .next (s.arrive t)
  | _ => .next (s.arrive t)

/-- FILL_COMPLETE: 150,000 microseconds after initialisation began every word holds zero data and a matching code, and
the part is STOPPED with MEMORY_READY raised (R108, R109). -/
def execFillComplete (t : Stamp) (s : State) : Host.Outcome State Fault Refusal :=
  match s.fmc.init with
  | .filling start =>
    if t = start + Config.initialisationTime then
      .next ((((s.arrive t).setFmc { s.fmc with init := .idle, mem := [], wordErrors := [] }).setPu
        { s.pu with run := .stopped }).raise .memoryReady .part 0 t)
    else .next (s.arrive t)
  | _ => .next (s.arrive t)

end Sys2Proof.Machine
end

