-- ==== Sys2Proof/Machine/Pixel.lean ====
section
/-! DEFINITION. The stitching computation of Chapter 1, Stages A to H, as functions of the composition set, the cut set,
the node table and the frame memory. `/` and `%` on integers with a positive divisor are the manual's floor and mod. -/
namespace Sys2Proof.Machine

/-- What an unwritten node holds (R27). -/
def blankNode : NodeRecord := .all ⟨none, 0⟩

/-- A node record of a view slot. -/
def nodeAt (nodes : List (Nat × NodeRecord)) (i : Nat) : NodeRecord := (keyGet nodes i).getD blankNode

/-- The corner nodes n00, n10, n01 and n11 of cell (i, j), in this order (R3). -/
def cornerIndices (i j : Nat) : Quad Nat :=
  let n := j * Config.nodeColumns + i
  ⟨n, n + 1, n + 46, n + 47⟩

/-- Stage A: the four corner node records of the cell of pixel (x, y) (R5). -/
def corners (nodes : List (Nat × NodeRecord)) (x y : Nat) : Quad NodeRecord :=
  (cornerIndices (x / 16) (y / 16)).map (nodeAt nodes)

/-- A zone is active for the frame under a body snapshot (R7). -/
def zoneActive (z : Zone) (body : BitVec 4) : Bool := z.enabled && (body.getLsbD z.cond.val != z.whenClear)

/-- A zone's rectangle covers cell (i, j) (R7). -/
def zoneCovers (z : Zone) (i j : Nat) : Bool := z.i0 ≤ i && i ≤ z.i1 && z.j0 ≤ j && j ≤ z.j1

/-- Some active zone of the camera covers the cell (R7). -/
def excluded (zones : Quad Zone) (body : BitVec 4) (i j : Nat) : Bool :=
  zones.toList.any fun z => zoneActive z body && zoneCovers z i j

/-- The camera's coordinates at the four corners, if every corner has one (R6, condition 3). -/
def cornerCoords (ns : Quad NodeRecord) (c : Camera) : Option (Quad (Int × Int)) :=
  match (ns.c0.get c).coord, (ns.c1.get c).coord, (ns.c2.get c).coord, (ns.c3.get c).coord with
  | some a, some b, some d, some e => some ⟨a, b, d, e⟩
  | _, _, _, _ => none

/-- The corner factors k00, k10, k01 and k11 (R9). -/
def cornerFactors (dx dy : Nat) : Quad Nat := ⟨(16 - dx) * (16 - dy), dx * (16 - dy), (16 - dx) * dy, dx * dy⟩

/-- Stage C for one coordinate: the corner values weighted and rounded half up (R9). -/
def interpolate (k : Quad Nat) (v : Quad Int) : Int :=
  (k.c0 * v.c0 + k.c1 * v.c1 + k.c2 * v.c2 + k.c3 * v.c3 + 128) / 256

/-- Stage C for the weight (R10). -/
def interpolateWeight (k w : Quad Nat) : Nat :=
  (k.c0 * w.c0 + k.c1 * w.c1 + k.c2 * w.c2 + k.c3 * w.c3 + 128) / 256

/-- Stage D (R11). -/
def validSample (u v : Int) (w h : Nat) : Bool :=
  0 ≤ u && u ≤ 64 * ((w : Int) - 1) && 0 ≤ v && v ≤ 64 * ((h : Int) - 1)

/-- A contributing camera of a pixel (R11): its weight, its coordinate, and the slot and size of its frame. -/
structure Contribution where
  cam : Camera
  weight : Nat
  u : Int
  v : Int
  source : Taken
  deriving DecidableEq, Repr

/-- Stages B to D for one camera at pixel (x, y): what it contributes, if it does (R6, R9, R10, R11). -/
def contribution (nodes : List (Nat × NodeRecord)) (set : CompSet) (cut : Quad Bool) (x y : Nat) (c : Camera) :
    Option Contribution :=
  match set.cams.get c with
  | .taken k =>
    if cut.get c || excluded (set.zones.get c) set.body (x / 16) (y / 16) then none
    else
      match cornerCoords (corners nodes x y) c with
      | none => none
      | some q =>
        let f := cornerFactors (x % 16) (y % 16)
        let u := interpolate f (q.map Prod.fst)
        let v := interpolate f (q.map Prod.snd)
        let w := interpolateWeight f ((corners nodes x y).map fun n => (n.get c).weight)
        if validSample u v k.width k.height && 0 < w then some ⟨c, w, u, v, k⟩ else none
  | _ => none

/-- The contributing set of pixel (x, y), in camera order; empty when no view is active (R5, R17). -/
def contributions (nodes : List (Nat × NodeRecord)) (set : CompSet) (cut : Quad Bool) (x y : Nat) : List Contribution :=
  match set.view with
  | none => []
  | some _ => cameras.filterMap (contribution nodes set cut x y)

/-- The columns and lines of taps A, B, C and D (R12). -/
def taps (u v : Int) (w h : Nat) : Quad (Nat × Nat) :=
  let iu := (u / 64).toNat
  let iv := (v / 64).toNat
  let iu' := min (iu + 1) (w - 1)
  let iv' := min (iv + 1) (h - 1)
  ⟨(iu, iv), (iu', iv), (iu, iv'), (iu', iv')⟩

/-- The first byte of the pair that a tap belongs to: Cb, Y of the even pixel, Cr, Y of the odd one (R13, R52). -/
def pairAddress (c : Camera) (slot : Fin 3) (tap : Nat × Nat) : Nat := rowBase c slot tap.2 + 4 * (tap.1 / 2)

/-- The luma and chroma of a tap (R13). -/
def tapValue (mem : List Host.Cell) (c : Camera) (slot : Fin 3) (tap : Nat × Nat) : Yuv :=
  let a := pairAddress c slot tap
  { y := memRead mem (a + (if tap.1 % 2 = 0 then 1 else 3)), cb := memRead mem a, cr := memRead mem (a + 2) }

/-- The 64-bit words that hold the four taps (R93). -/
def tapWords (c : Camera) (slot : Fin 3) (u v : Int) (w h : Nat) : List Nat :=
  (taps u v w h).toList.flatMap fun p => wordsOf (pairAddress c slot p) 4

/-- The tap factors a, b, c and d (R14). -/
def tapFactors (u v : Int) : Quad Nat :=
  let fu := (u % 64).toNat
  let fv := (v % 64).toNat
  ⟨(64 - fu) * (64 - fv), fu * (64 - fv), (64 - fu) * fv, fu * fv⟩

/-- Stage E for one channel (R14). -/
def bilinear (k : Quad Nat) (p : Quad Byte) : Byte :=
  BitVec.ofNat 8 ((k.c0 * p.c0.toNat + k.c1 * p.c1.toNat + k.c2 * p.c2.toNat + k.c3 * p.c3.toNat + 2048) / 4096)

/-- Stage E: the sample of a camera at a coordinate (R14). -/
def sampleAt (mem : List Host.Cell) (c : Camera) (slot : Fin 3) (u v : Int) (w h : Nat) : Yuv :=
  let p := (taps u v w h).map (tapValue mem c slot)
  let k := tapFactors u v
  ⟨bilinear k (p.map Yuv.y), bilinear k (p.map Yuv.cb), bilinear k (p.map Yuv.cr)⟩

/-- Stage F: the gained luma Yg (R16). -/
def gained (y : Byte) (g : Nat) : Nat := min 255 ((y.toNat * g + 128) / 256)

/-- A member of the contributing set with its sample and its gained luma. -/
structure Member where
  cam : Camera
  weight : Nat
  yg : Nat
  cb : Nat
  cr : Nat
  deriving DecidableEq, Repr

/-- The weight sum W (R17). -/
def weightSum (ms : List Member) : Nat := (ms.map Member.weight).sum

/-- Stage G for one channel: the rounded weighted mean (R18). -/
def weightedMean (ms : List Member) (f : Member → Nat) : Byte :=
  BitVec.ofNat 8 (((ms.map fun m => m.weight * f m).sum + weightSum ms / 2) / weightSum ms)

/-- Stage G: the blend, or the fill colour where the weight sum is 0 (R18, R19). -/
def blend (fill : Yuv) (ms : List Member) : Yuv :=
  if weightSum ms = 0 then fill
  else ⟨weightedMean ms Member.yg, weightedMean ms Member.cb, weightedMean ms Member.cr⟩

/-- Half up mean of two chroma values (R20). -/
def meanUp (a b : Byte) : Byte := BitVec.ofNat 8 ((a.toNat + b.toNat + 1) / 2)

/-- Stage H: the pairs of a line (R20). -/
def packLine : List Yuv → List OutPair
  | p :: q :: r => ⟨p.y, q.y, meanUp p.cb q.cb, meanUp p.cr q.cr⟩ :: packLine r
  | _ => []

/-- The line that goes out as fill (R127). -/
def fillLine (fill : Yuv) : List OutPair := packLine (List.replicate Config.canvasWidth fill)

/-- Yg of a camera among the members, if it contributes. -/
def memberYg (ms : List Member) (c : Camera) : Option Nat := (ms.find? fun m => m.cam == c).map Member.yg

/-- The statistics of a pixel are added to the line accumulators (R133). -/
def addPixel (acc : Totals) (ms : List Member) : Totals :=
  { seams := .ofFn fun k =>
      match memberYg ms k, memberYg ms (k + 1) with
      | some a, some b => ⟨(acc.seams.get k).n + 1, (acc.seams.get k).sa + a, (acc.seams.get k).sb + b⟩
      | _, _ => acc.seams.get k
    coverage := .ofFn fun c => (acc.coverage.get c) + (if (memberYg ms c).isSome then 1 else 0) }

/-- The line accumulators are added to the frame totals (R134). -/
def addTotals (a b : Totals) : Totals :=
  { seams := .ofFn fun k =>
      ⟨(a.seams.get k).n + (b.seams.get k).n, (a.seams.get k).sa + (b.seams.get k).sa, (a.seams.get k).sb + (b.seams.get k).sb⟩
    coverage := .ofFn fun c => a.coverage.get c + b.coverage.get c }

end Sys2Proof.Machine
end

