-- ==== Sys2Proof/Machine/Compose.lean ====
section
/-! DEFINITION. The composition engine at work: pixels, lines, cuts and its transfers (1.4, R8, R15, R22 to R25, R93, R94,
R105, R106). -/
namespace Sys2Proof.Machine

/-- The node table that the frame in progress reads: that of its active view (R43). -/
def State.nodes (s : State) : List (Nat × NodeRecord) :=
  match s.ce.set.bind CompSet.view with
  | some v => (s.vs.slots.get v).nodes
  | none => []

/-- The contributing set of the pixel being computed. -/
def CE.contributing (ce : CE) (nodes : List (Nat × NodeRecord)) : List Contribution :=
  match ce.set with
  | some set =>
    if ce.state = .composing ∧ ce.pixels.length < Config.canvasWidth then
      contributions nodes set ce.cut ce.pixels.length ce.line
    else []
  | none => []

/-- The contributing cameras whose taps the engine still needs for the pixel being computed (R93). -/
def CE.wanted (ce : CE) (nodes : List (Nat × NodeRecord)) : List Contribution :=
  (ce.contributing nodes).filter fun k => !ce.samples.any fun e => e.1 == k.cam

/-- The members of the contributing set with the samples fetched for them, gained (R16, R17). -/
def CE.members (ce : CE) (nodes : List (Nat × NodeRecord)) (gains : Quad Nat) : List Member :=
  (ce.contributing nodes).filterMap fun k =>
    (ce.samples.find? fun e => e.1 == k.cam).map fun e =>
      ⟨k.cam, k.weight, gained e.2.y (gains.get k.cam), e.2.cb.toNat, e.2.cr.toNat⟩

/-- Compute one pixel and add its statistics to the line accumulators (R18, R19, R133). -/
def CE.compose (ce : CE) (nodes : List (Nat × NodeRecord)) : CE :=
  match ce.set with
  | some set =>
    let ms := ce.members nodes set.gains
    { ce with pixels := ce.pixels ++ [blend set.fill ms], samples := [], acc := addPixel ce.acc ms }
  | none => ce

/-- Compute pixels from left to right as long as the next one needs no further taps (R23). -/
def CE.settle (nodes : List (Nat × NodeRecord)) : Nat → CE → CE
  | 0, ce => ce
  | n + 1, ce =>
    if ce.state = .composing ∧ ce.pixels.length < Config.canvasWidth ∧ ce.set.isSome ∧ ce.wanted nodes = [] then
      CE.settle nodes n (ce.compose nodes)
    else ce

/-- Begin a line: no pixel computed, accumulators clear (R22, R23). -/
def CE.beginLine (ce : CE) (nodes : List (Nat × NodeRecord)) (k : Nat) : CE :=
  CE.settle nodes Config.canvasWidth
    { ce with state := .composing, line := k, pixels := [], samples := [], acc := .zero }

/-- The CE line that GET_STATUS reports (R22). -/
def CE.reportedLine (ce : CE) : Nat :=
  match ce.state with
  | .idle => 0
  | .composing | .full => ce.line
  | .finished => Config.canvasHeight

/-- A line leaves the line FIFO: a FULL engine begins the next line at once (R22, R24). -/
def CE.lineLeft (ce : CE) (nodes : List (Nat × NodeRecord)) : CE :=
  if ce.state = .full then ce.beginLine nodes ce.line else ce

/-- Line `k` underruns while it is being composed: the partial line and its accumulators are discarded (R25). -/
def CE.abandonLine (ce : CE) (nodes : List (Nat × NodeRecord)) (k : Nat) : CE :=
  if ce.state = .composing ∧ ce.line = k then
    if k + 1 < Config.canvasHeight then ce.beginLine nodes (k + 1)
    else { ce with state := .finished, pixels := [], samples := [], acc := .zero }
  else ce

/-- The engine once the line being composed is complete and in the FIFO, which then holds `held` lines (R22, R23). -/
def CE.afterLine (ce : CE) (nodes : List (Nat × NodeRecord)) (held : Nat) : CE :=
  let ce' := { ce with pixels := [], samples := [], acc := .zero, totals := addTotals ce.totals ce.acc }
  if ce.line + 1 < Config.canvasHeight then
    if held < Config.lineFifoDepth then ce'.beginLine nodes (ce.line + 1) else { ce' with state := .full, line := ce.line + 1 }
  else { ce' with state := .finished }

/-- LINE_COMPLETE: all 720 pixels are computed; the line enters the FIFO whole (R23, R24). -/
def execLineComplete (t : Stamp) (s : State) : Host.Outcome State Fault Refusal :=
  if s.ce.state = .composing ∧ s.ce.pixels.length = Config.canvasWidth ∧ s.op.fifo.length < Config.lineFifoDepth then
    .next (((s.arrive t).setOp { s.op with fifo := s.op.fifo ++ [(s.ce.line, packLine s.ce.pixels)] }).setCe
      (s.ce.afterLine s.nodes (s.op.fifo.length + 1)))
  else .next (s.arrive t)

/-- The frame in progress is this one. -/
def CE.inFrame (ce : CE) (frameNo : Count) : Bool :=
  match ce.set with
  | some set => set.frameNo == frameNo
  | none => false

/-- A sample arrives for a pixel; it is used if that pixel is still the one being computed (R15, R93). -/
def CE.deliver (ce : CE) (nodes : List (Nat × NodeRecord)) (c : Camera) (frameNo : Count) (line x : Nat) (y : Yuv) : CE :=
  if ce.inFrame frameNo ∧ ce.state = .composing ∧ ce.line = line ∧ ce.pixels.length = x then
    CE.settle nodes Config.canvasWidth { ce with samples := ce.samples ++ [(c, y)] }
  else ce

/-- A cut: the camera joins the cut set of the frame in progress (R8). -/
def CE.cutCamera (ce : CE) (nodes : List (Nat × NodeRecord)) (c : Camera) (frameNo : Count) : CE :=
  if ce.inFrame frameNo then CE.settle nodes Config.canvasWidth { ce with cut := ce.cut.set c true } else ce

/-- The writer that the arbiter serves next: the first that waits, from the one after the last served (R94). -/
def nextWriter (cr : Quad Receiver) (last : Camera) : Option Camera :=
  [last + 1, last + 2, last + 3, last].find? fun c => writerWaits (cr.get c)

/-- ARBITER_GRANT: with the DRAM free, a waiting writer in round-robin order, or else the composition engine (R94). Which
camera's taps the engine asks for is the operand, and an ask that has not been granted is held nowhere: a grant serves the
pixel that is being computed when it comes, also where an underrun or a frame end has taken the pixel that was asked for
before (the model's choices, log entry 8). -/
def execArbiterGrant (t : Stamp) (ask : Camera) (s : State) : Host.Outcome State Fault Refusal :=
  if s.pu.run.operational && s.fmc.transfer.isNone then
    match nextWriter s.cr s.fmc.lastServed with
    | some c => .next ((s.arrive t).setFmc { s.fmc with transfer := some (.writer c), lastServed := c })
    | none =>
      match (s.ce.wanted s.nodes).find? fun k => k.cam == ask, s.ce.set with
      | some k, some set =>
        .next ((s.arrive t).setFmc
          { s.fmc with
            transfer :=
              some (.taps k.cam k.source.slot k.source.counter set.frameNo s.ce.line s.ce.pixels.length k.u k.v
                k.source.width k.source.height) })
      | _, _ => .next (s.arrive t)
  else .next (s.arrive t)

/-- The line item of a POISON fault: the output line that the engine composes (R8, R106, R147). Where it composes none,
its line or frame having ended since the transfer was granted, the manual gives no line: a free value (log entry 7). -/
def State.poisonLine (s : State) : Nat :=
  if s.ce.state = .composing then s.ce.line else (Config.poisonLine s.free).val

/-- The use of a free value by `poisonLine` is counted. -/
def State.afterPoisonLine (s : State) : State := if s.ce.state = .composing then s else s.setFree (s.free + 1)

/-- An uncorrectable word of a tap read: the slot is poisoned, the camera cut, and POISON handed with the line that is
being composed (R106). -/
def State.poison (s : State) (t : Stamp) (c : Camera) (slot : Fin 3) (counter : Half) (frameNo : Count) : State :=
  (((s.afterPoisonLine.setRing c (ringPoison (s.fmc.rings.get c) slot)).setCe
    (s.ce.cutCamera s.nodes c frameNo)).handFault
      ⟨.cam c, .poison, t, some counter, some s.poisonLine, some slot⟩)

/-- The completion of a tap read: ECC_FIXED, then either the sample or poison, cut and POISON (R105, R106). -/
def State.completeTaps (s : State) (t : Stamp) (upsets : List (Nat × WordError)) (c : Camera) (slot : Fin 3)
    (counter : Half) (frameNo : Count) (line x : Nat) (u v : Int) (w h : Nat) : State :=
  let words := tapWords c slot u v w h
  let errors := addErrors s.fmc.wordErrors words upsets
  let s0 := s.setFmc { s.fmc with transfer := none, wordErrors := errors }
  let s1 :=
    if anyError errors words .single then s0.handFault ⟨.cam c, .eccFixed, t, some counter, none, some slot⟩ else s0
  if anyError errors words .double then s1.poison t c slot counter frameNo
  else s1.setCe (s1.ce.deliver s1.nodes c frameNo line x (sampleAt s1.fmc.mem c slot u v w h))

/-- COMPOSITION_TRANSFER_COMPLETE (R93, R105, R106). -/
def execCompositionTransferComplete (t : Stamp) (upsets : List (Nat × WordError)) (s : State) :
    Host.Outcome State Fault Refusal :=
  match s.fmc.transfer with
  | some (.taps c slot counter frameNo line x u v w h) =>
    .next ((s.arrive t).completeTaps t upsets c slot counter frameNo line x u v w h)
  | _ => .next (s.arrive t)

end Sys2Proof.Machine
end

