-- ==== Sys2Proof/Machine/Link.lean ====
section
/-! DEFINITION. The link controller: framer, inbox, executor and outbox (Chapter 10). -/
namespace Sys2Proof.Machine

/-! ### The outbox -/

/-- Replies of the executor that have not finished sending (R173). -/
def LC.executorReplies (lc : LC) : Nat := (lc.outbox.filter Reply.executor).length

/-- Replies of the framer that have not finished sending (R173). -/
def LC.framerReplies (lc : LC) : Nat := (lc.outbox.filter fun r => !r.executor).length

/-- The framer places a reply; it is not sent where eight framer replies wait (R173). -/
def LC.placeFramer (lc : LC) (kind tag : Byte) (st : Status) : LC :=
  if lc.framerReplies < Config.outboxFramerDepth then { lc with outbox := lc.outbox ++ [⟨kind, tag, st, [], false⟩] } else lc

/-- The executor places a reply. -/
def LC.placeExecutor (lc : LC) (kind tag : Byte) (st : Status) (data : List Byte) : LC :=
  { lc with outbox := lc.outbox ++ [⟨kind, tag, st, data, true⟩] }

/-! ### The framer -/

/-- A whole frame: BAD_FRAME, a place in the inbox, or BUSY (R171). -/
def LC.complete (lc : LC) (len : Nat) (kind tag : Byte) (body crcBytes : List Byte) : LC :=
  if leNat crcBytes = (crc (framed len kind tag body)).toNat then
    if lc.inbox.length < Config.inboxDepth then { lc with inbox := lc.inbox ++ [⟨kind, tag, body⟩] }
    else lc.placeFramer kind tag .busy
  else lc.placeFramer kind tag .badFrame

/-- What the framer waits for once these header bytes are stored (R169). -/
def afterHeader : List Byte → Framer
  | [l0, l1] => if Config.payloadMax < leNat [l0, l1] then .drain [] else .header [l0, l1]
  | [l0, l1, kind, tag] =>
    if leNat [l0, l1] = 0 then .trailer 0 kind tag [] [] else .payload (leNat [l0, l1]) kind tag []
  | got => .header got

/-- A byte reaches the framer (R169, R170). -/
def LC.takeByte (lc : LC) (b : Byte) (t : Stamp) : LC :=
  match lc.framer with
  | .hunt => if b = 0xC3#8 then { lc with framer := .header [], lastByte := t } else lc
  | .header got => { lc with framer := afterHeader (got ++ [b]), lastByte := t }
  | .payload len kind tag got =>
    if (got ++ [b]).length < len then { lc with framer := .payload len kind tag (got ++ [b]), lastByte := t }
    else { lc with framer := .trailer len kind tag (got ++ [b]) [], lastByte := t }
  | .trailer len kind tag body got =>
    if (got ++ [b]).length < 2 then { lc with framer := .trailer len kind tag body (got ++ [b]), lastByte := t }
    else { lc with framer := .hunt, lastByte := t }.complete len kind tag body (got ++ [b])
  | .drain got =>
    { lc with framer := .drain (if got.length < 2 then got ++ [b] else got), lastByte := t }

/-- The gap expires: a partial frame is dropped, a drained one is answered BAD_LENGTH (R169, R170). -/
def LC.expireGap (lc : LC) : LC :=
  match lc.framer with
  | .hunt => lc
  | .drain got => { lc with framer := .hunt }.placeFramer (got.getD 0 0#8) (got.getD 1 0#8) .badLength
  | _ => { lc with framer := .hunt }

/-- The gap timer runs: the framer is inside a frame or draining (R169, R170). -/
def Framer.timed : Framer → Bool
  | .hunt => false
  | _ => true

/-! ### The executor -/

/-- What executing a request comes to: a reply at once, or, for a CLOSE_VIEW that starts its scan, later. -/
inductive Served where
  | reply (s : State) (status : Status) (data : List Byte)
  | later (s : State)

/-- A request refused with this status changes no state (R172). -/
def refuse (s : State) (st : Status) : Served := .reply s st []

/-- Carried out, with no data. -/
def accept (s : State) : Served := .reply s .ok []

/-- The reply enters the outbox (R172, R173). -/
def Served.finish (kind tag : Byte) : Served → State
  | .reply s st data => s.setLc (s.lc.placeExecutor kind tag st data)
  | .later s => s

/-- The executor is idle and the outbox has room for a reply from it (R172, R173). -/
def LC.canTake (lc : LC) : Bool := lc.closing.isNone && lc.executorReplies < Config.outboxExecutorDepth

/-- The executor takes this request from the head of the inbox and executes it (R172). Where it is not idle, the outbox
has no room, or another frame or none stands at the head, the event does not come about (log entry 2). -/
def serve (kind : Byte) (t : Stamp) (tag : Byte) (payload : List Byte) (body : State → Served) (s : State) :
    Host.Outcome State Fault Refusal :=
  match s.lc.inbox with
  | [] => .next (s.arrive t)
  | f :: rest =>
    if s.lc.canTake && f == ⟨kind, tag, payload⟩ then
      .next ((body ((s.arrive t).setLc { s.lc with inbox := rest })).finish kind tag)
    else .next (s.arrive t)

/-- Step 2 of R172 for the requests that are refused in STARTUP and MEMORY_FAULT. -/
def whenReady (s : State) (k : Served) : Served := if s.pu.run.operational then k else refuse s .notReady

/-- Step 3 of R172 for a payload of fixed length. -/
def whenLength (s : State) (payload : List Byte) (n : Nat) (k : Served) : Served :=
  if payload.length = n then k else refuse s .badValue

/-- A request for one camera or slot whose number is the byte at offset 0: the number must lie in 0..3. -/
def withIndex (s : State) (n : Nat) (k : Fin 4 → Served) : Served :=
  match indexOf n with
  | some i => k i
  | none => refuse s .badValue

/-- The KINDs of the catalogue (R174). -/
def catalogue : List Byte :=
  [0x01#8, 0x02#8, 0x03#8, 0x04#8, 0x05#8, 0x06#8, 0x10#8, 0x11#8, 0x12#8, 0x13#8, 0x14#8, 0x20#8, 0x21#8, 0x22#8,
    0x23#8, 0x24#8, 0x28#8, 0x29#8, 0x2A#8, 0x30#8, 0x31#8, 0x38#8, 0x39#8, 0x3A#8, 0x40#8, 0x41#8, 0x42#8]

/-- The level of TXD in bit time `n` since the reply at the head of the outbox began (R167, R173); high between replies
(log entry 20). -/
def LC.txd (lc : LC) (n : Nat) : Bool :=
  match lc.outbox with
  | r :: _ => (replyLevels r).getD n true
  | [] => true

/-! ### The link's own commands -/

/-- BYTE_ARRIVAL: a character whose stop bit is low is discarded (R167); any other is a byte for the framer (R169). -/
def execByteArrival (t : Stamp) (byte : Byte) (stopHigh : Bool) (s : State) : Host.Outcome State Fault Refusal :=
  if stopHigh then .next ((s.arrive t).setLc (s.lc.takeByte byte t)) else .next (s.arrive t)

/-- GAP_EXPIRY: 100 microseconds have passed since the last byte inside a frame (R169, R170). -/
def execGapExpiry (t : Stamp) (s : State) : Host.Outcome State Fault Refusal :=
  if s.lc.framer.timed && t == s.lc.lastByte + Config.gapTime then .next ((s.arrive t).setLc s.lc.expireGap)
  else .next (s.arrive t)

/-- REPLY_SENT: the reply at the head of the outbox finishes sending, and the next one begins (R173). -/
def execReplySent (t : Stamp) (s : State) : Host.Outcome State Fault Refusal :=
  .next ((s.arrive t).setLc { s.lc with outbox := s.lc.outbox.tail })

/-- UNKNOWN_KIND: a KIND outside the catalogue is answered so and changes nothing (R172, step 1). -/
def execUnknownKind (t : Stamp) (kind tag : Byte) (payload : List Byte) (s : State) :
    Host.Outcome State Fault Refusal :=
  if catalogue.contains kind then .next (s.arrive t)
  else serve kind t tag payload (fun s => refuse s .unknownKind) s

end Sys2Proof.Machine
end

