-- ==== Sys2Proof/Machine/Operands.lean ====
section
/-! DEFINITION. The operands of the requests: what the bytes of their payloads carry (R174, R179). -/
namespace Sys2Proof.Machine

/-- The nine descriptor fields of SET_CAMERA's 20 bytes (R56, R174). -/
def descriptorOf (p : List Byte) : Descriptor :=
  { width := field p 1 2, height := field p 3 2, linePeriod := field p 5 2, nominal := field p 7 4
    tolerance := field p 11 1, silenceUs := field p 12 4, silenceLines := field p 16 2, acquire := field p 18 1
    lose := field p 19 1 }

/-- Every field of a descriptor lies in its range, and the width is even (R55). -/
def Descriptor.inRange (d : Descriptor) : Bool :=
  320 ≤ d.width && d.width ≤ 1920 && d.width % 2 == 0 && 240 ≤ d.height && d.height ≤ 1280 &&
  16 ≤ d.linePeriod && d.linePeriod ≤ 65535 && 10000 ≤ d.nominal && d.nominal ≤ 200000 &&
  1 ≤ d.tolerance && d.tolerance ≤ 20 && 1000 ≤ d.silenceUs && d.silenceUs ≤ 200000 &&
  1 ≤ d.silenceLines && d.silenceLines ≤ 1280 && 1 ≤ d.acquire && d.acquire ≤ 15 && 1 ≤ d.lose && d.lose ≤ 15

/-- A descriptor's 19 bytes in GET_CAMERA (R174). -/
def Descriptor.bytes (d : Descriptor) : List Byte :=
  leBytes 2 d.width ++ leBytes 2 d.height ++ leBytes 2 d.linePeriod ++ leBytes 4 d.nominal ++ leBytes 1 d.tolerance ++
  leBytes 4 d.silenceUs ++ leBytes 2 d.silenceLines ++ leBytes 1 d.acquire ++ leBytes 1 d.lose

/-- One camera's 7 bytes of a node record as carried: the coordinate if its presence bit is set, and the weight
(R34, R179). -/
def nodeCamOf (b : List Byte) : NodeCam :=
  let w := field b 6 1
  { coord := if 128 ≤ w then some (signed24 (b.take 3), signed24 ((b.drop 3).take 3)) else none, weight := w % 128 }

/-- A node record's 28 bytes as carried (R179). -/
def nodeRecordOf (b : List Byte) : NodeRecord := .ofFn fun c => nodeCamOf ((b.drop (7 * c.val)).take 7)

/-- A node coordinate lies in the node range (R27). -/
def coordInRange (x : Int) : Bool := -524288 ≤ x && x ≤ 524287

/-- What one camera's part of a record may hold: a present coordinate in range, a weight of at most 64 (R33). -/
def NodeCam.inRange (n : NodeCam) : Bool :=
  (match n.coord with
    | some (u, v) => coordInRange u && coordInRange v
    | none => true) && n.weight ≤ 64

def nodeRecordInRange (n : NodeRecord) : Bool := n.toList.all NodeCam.inRange

/-- The records that LOAD_NODES carries behind its four fixed bytes (R33, R174). -/
def nodeRecordsOf (p : List Byte) (count : Nat) : List NodeRecord :=
  (List.range count).map fun k => nodeRecordOf ((p.drop (4 + 28 * k)).take 28)

/-- One camera's 7 bytes of a node record as returned (R39, R179). -/
def NodeCam.bytes (n : NodeCam) : List Byte :=
  match n.coord with
  | some (u, v) => leInt 3 u ++ leInt 3 v ++ leBytes 1 (128 + n.weight)
  | none => leBytes 6 0 ++ leBytes 1 n.weight

def nodeRecordBytes (n : NodeRecord) : List Byte := n.toList.flatMap NodeCam.bytes

/-- The zone that SET_ZONE's bytes carry from the third on, if every field is in range (R45). -/
def zoneOf (en i0 i1 j0 j1 cond sense : Nat) : Option Zone :=
  match flagOf en, indexOf cond, flagOf sense with
  | some e, some c, some w =>
    if i0 ≤ i1 ∧ i1 < Config.cellColumns ∧ j0 ≤ j1 ∧ j1 < Config.cellRows then some ⟨e, i0, i1, j0, j1, c, w⟩ else none
  | _, _, _ => none

/-- The harmonisation settings that SET_HARMONISE carries, the step limit and Nmin clamped, if no check fails (R142). -/
def harmSettingsOf (p : List Byte) : Option HarmSettings :=
  match flagOf (field p 0 1), flagOf (field p 8 1) with
  | some auto, some relief =>
    let gmin := field p 2 2
    let gmax := field p 4 2
    if 64 ≤ gmin ∧ gmin ≤ 1023 ∧ 64 ≤ gmax ∧ gmax ≤ 1023 ∧ gmin ≤ gmax then
      some ⟨auto, clampNat (field p 1 1) 1 32, gmin, gmax, clampNat (field p 6 2) 64 65535, relief⟩
    else none
  | _, _ => none

/-- SET_HARMONISE carries a step limit or an Nmin outside its range (R142). -/
def harmAdjusted (p : List Byte) : Bool :=
  clampNat (field p 1 1) 1 32 != field p 1 1 || clampNat (field p 6 2) 64 65535 != field p 6 2

def HarmSettings.bytes (h : HarmSettings) : List Byte :=
  flagByte h.auto :: leBytes 1 h.stepLimit ++ leBytes 2 h.gmin ++ leBytes 2 h.gmax ++ leBytes 2 h.nmin ++
    [flagByte h.relief]

/-- The policy of one notice kind from its mask and priority bytes (R159). -/
def noticePolicyOf (m p : Nat) : Option NoticePolicy :=
  match flagOf m, indexOf p with
  | some a, some b => some ⟨a, b⟩
  | _, _ => none

/-- The nine policies that SET_NOTICE_POLICY carries, if every mask and priority is in range (R159). -/
def noticePoliciesOf (p : List Byte) : Option (PerNotice NoticePolicy) :=
  let at' := fun (k : Nat) => noticePolicyOf (field p (2 * k) 1) (field p (2 * k + 1) 1)
  match at' 0, at' 1, at' 2, at' 3, at' 4, at' 5, at' 6, at' 7, at' 8 with
  | some a, some b, some c, some d, some e, some f, some g, some h, some i => some ⟨a, b, c, d, e, f, g, h, i⟩
  | _, _, _, _, _, _, _, _, _ => none

end Sys2Proof.Machine
end

