-- ==== Sys2Proof/Machine/Qualify.lean ====
section
/-! DEFINITION. The qualification machine (R77 to R83) and the silence threshold (R84). -/
namespace Sys2Proof.Machine

/-- What qualification gives back for a close: the port's state and counts after it, publish or abandon, whether the
close is a loss, and the notice (R77). -/
structure Verdict where
  qual : Qual
  goodRun : Nat
  badRun : Nat
  publish : Bool
  loss : Bool
  notice : Option NoticeKind
  deriving DecidableEq, Repr

/-- A good close (R80, R81, R82). -/
def judgeGood (q : Qual) (g b acquire : Nat) : Verdict :=
  match q with
  | .acquiring =>
    if g + 1 < acquire then ⟨.acquiring, g + 1, 0, false, false, none⟩ else ⟨.locked, 0, 0, true, false, some .qualified⟩
  | .locked => ⟨.locked, 0, 0, true, false, none⟩
  | .holdover =>
    if g + 1 < acquire then ⟨.holdover, g + 1, b, true, false, none⟩ else ⟨.locked, 0, 0, true, false, none⟩
  | .disabled => ⟨.disabled, 0, 0, false, false, none⟩
  | .noSignal => ⟨.noSignal, 0, 0, false, false, none⟩

/-- A bad close (R80, R81, R82); a bad frame is always abandoned. -/
def judgeBad (q : Qual) (b lose : Nat) : Verdict :=
  match q with
  | .acquiring => ⟨.acquiring, 0, 0, false, false, none⟩
  | .locked =>
    if 1 < lose then ⟨.holdover, 0, 1, false, false, some .holdoverEntered⟩
    else ⟨.acquiring, 0, 0, false, true, some .qualificationLost⟩
  | .holdover =>
    if b + 1 < lose then ⟨.holdover, 0, b + 1, false, false, none⟩
    else ⟨.acquiring, 0, 0, false, true, some .qualificationLost⟩
  | .disabled => ⟨.disabled, 0, 0, false, false, none⟩
  | .noSignal => ⟨.noSignal, 0, 0, false, false, none⟩

/-- The silence threshold in microseconds (R84). -/
def silenceThreshold (d : Descriptor) : Nat := max d.silenceUs (min d.silenceLines d.height * d.linePeriod / 16)

end Sys2Proof.Machine
end

