-- ==== Sys2Proof/Machine/Receivers.lean ====
section
/-! DEFINITION. The camera receivers: packets, frame checks, closes, silence, and the requests on a port (Chapters 3
and 4). -/
namespace Sys2Proof.Machine

/-! ### The pieces of a receiver's work -/

/-- A packet arrival restarts the silence timing in ACQUIRING, LOCKED and HOLDOVER (R85). -/
def Receiver.touch (r : Receiver) (t : Stamp) : Receiver := if r.qual.timed then { r with lastArrival := t } else r

/-- Width and height of the descriptor; an enabled port always has one (R55). -/
def Receiver.width (r : Receiver) : Nat := (r.descriptor.map Descriptor.width).getD 0
def Receiver.height (r : Receiver) : Nat := (r.descriptor.map Descriptor.height).getD 0

/-- The frame in progress fails; its first failure stands until it closes (R57, R65). -/
def Receiver.fail (r : Receiver) (f : OpenFrame) (k : FaultKind) (t : Stamp) (line : Option Nat) : Receiver :=
  { r with openFrame := some { f with failure := some ⟨k, t, line⟩ } }

/-- The allowed deviation of the period check (R59). -/
def periodDeviation (nominal tolerance : Nat) : Nat := nominal * tolerance / 100

/-- The period check (R59); it is skipped while no previous open stamp is held. -/
def periodFails (d : Option Descriptor) (prev : Option Stamp) (t : Stamp) : Bool :=
  match d, prev with
  | some d, some p =>
    let dev := periodDeviation d.nominal d.tolerance
    !(d.nominal - dev ≤ (t - p).toNat && (t - p).toNat ≤ d.nominal + dev)
  | _, _ => false

/-- A FRAME_OPEN opens a frame: the five steps of R58. -/
def Receiver.beginFrame (r : Receiver) (t : Stamp) : Receiver :=
  { r with
    openFrame :=
      some ⟨t, none, 0, if periodFails r.descriptor r.prevOpen t then some ⟨.period, t, none⟩ else none⟩
    prevOpen := some t
    fifo := r.fifo ++ [.openReq]
    counters := { r.counters with opened := r.counters.opened + 1 } }

/-- A FRAME_OPEN in NO_SIGNAL starts acquisition (R79). -/
def Receiver.acquire (r : Receiver) (t : Stamp) : Receiver :=
  { r with qual := .acquiring, goodRun := 0, badRun := 0, lastArrival := t, bprev := none, lastPublished := none }

/-- The bad count of a failure kind (R73). -/
def StreamCounters.bad (n : StreamCounters) : FaultKind → StreamCounters
  | .infoCrc => { n with badInfoCrc := n.badInfoCrc + 1 }
  | .struct => { n with badStructure := n.badStructure + 1 }
  | .lineLength => { n with badLineLength := n.badLineLength + 1 }
  | .overflow => { n with badOverflow := n.badOverflow + 1 }
  | .period => { n with badPeriod := n.badPeriod + 1 }
  | .skip | .poison | .silence | .eccFixed | .underrun => n

/-- The judgement completed at a FRAME_CLOSE: the frame's failure, or the INFO of a good frame (R63). -/
def judgeFrame (f : OpenFrame) (height : Nat) (t : Stamp) : Failure ⊕ Info :=
  match f.failure, f.info with
  | some x, _ => .inl x
  | none, none => .inl ⟨.infoCrc, t, none⟩
  | none, some i => if f.next < height then .inl ⟨.struct, t, some f.next⟩ else .inr i

/-- The SKIP check of a good frame in LOCKED or HOLDOVER (R66). -/
def skips (r : Receiver) (i : Info) : Bool :=
  r.qual.qualified &&
    (match r.lastPublished with
      | some n => i.counter != n + 1
      | none => false)

/-- The relief decision (R71). -/
def reliefDue (bprev : Option Half) (b : Half) : Bool :=
  match bprev with
  | some p => p.toNat < 4 * ((b.toNat : Int) - p.toNat).natAbs
  | none => false

/-- A block raises a notice, if there is one to raise. -/
def State.raiseIf (s : State) (k : Option NoticeKind) (src : NoticeSource) (t : Stamp) : State :=
  match k with
  | some k => s.raise k src 0 t
  | none => s

/-- The receiver once a bad frame is closed: counted, qualified, abandoned, and dropped (R63, R77). -/
def Receiver.closeBad (r : Receiver) (x : Failure) (v : Verdict) : Receiver :=
  { r with
    qual := v.qual, goodRun := v.goodRun, badRun := v.badRun, openFrame := none
    fifo := r.fifo ++ .abandonReq :: (if v.loss then [.dropReadyReq] else [])
    bprev := if v.loss then none else r.bprev
    lastPublished := if v.loss then none else r.lastPublished
    counters := r.counters.bad x.kind }

/-- Close a frame as bad (R63, R64, R77): the fault first, then qualification and its notice. -/
def State.closeBad (s : State) (c : Camera) (f : OpenFrame) (x : Failure) (t : Stamp) : State :=
  let r := s.cr.get c
  let v := judgeBad r.qual r.badRun ((r.descriptor.map Descriptor.lose).getD 0)
  let s1 :=
    if r.qual.qualified then s.handFault ⟨.cam c, x.kind, x.stamp, f.info.map Info.counter, x.line, none⟩ else s
  (s1.setReceiver c (r.closeBad x v)).raiseIf v.notice (.cam c) t

/-- The stream counters of a good close (R63, R66, R70). -/
def StreamCounters.close (n : StreamCounters) (skipped published : Bool) : StreamCounters :=
  { n with
    good := n.good + 1
    skipped := if skipped then n.skipped + 1 else n.skipped
    published := if published then n.published + 1 else n.published }

/-- The receiver once a good frame is closed at `t`: published or abandoned as qualification answers (R63, R70). -/
def Receiver.closeGood (r : Receiver) (i : Info) (v : Verdict) (t : Stamp) : Receiver :=
  { r with
    qual := v.qual, goodRun := v.goodRun, badRun := v.badRun, openFrame := none
    fifo := r.fifo ++ [if v.publish then .publishReq t i.counter else .abandonReq]
    lastInfo := if v.publish then some i else r.lastInfo
    bprev := if v.publish then some i.brightness else r.bprev
    lastPublished := if v.publish then some i.counter else r.lastPublished
    counters := r.counters.close (skips r i) v.publish }

/-- Close a frame as good (R63, R66, R70, R77). -/
def State.closeGood (s : State) (c : Camera) (i : Info) (t : Stamp) : State :=
  let r := s.cr.get c
  let v := judgeGood r.qual r.goodRun r.badRun ((r.descriptor.map Descriptor.acquire).getD 0)
  let s1 := if skips r i then s.handFault ⟨.cam c, .skip, t, some i.counter, none, none⟩ else s
  let s2 := s1.setReceiver c (r.closeGood i v t)
  let s3 :=
    if v.publish && reliefDue r.bprev i.brightness then s2.setHu { s2.hu with relief := s2.hu.relief.set c true } else s2
  s3.raiseIf v.notice (.cam c) t

/-! ### Packets -/

/-- FRAME_OPEN (R58, R79). -/
def execFrameOpen (t : Stamp) (cam : Camera) (_payload : List Byte) (s : State) : Host.Outcome State Fault Refusal :=
  let s0 := s.arrive t
  let r := (s.cr.get cam).touch t
  match r.qual with
  | .disabled => .next s0
  | .noSignal => .next (s0.setReceiver cam ((r.acquire t).beginFrame t))
  | _ =>
    match r.openFrame with
    | none => .next (s0.setReceiver cam (r.beginFrame t))
    | some f =>
      let x := f.failure.getD ⟨.struct, t, some f.next⟩
      let s1 := (s0.setReceiver cam r).closeBad cam f x t
      .next (s1.setReceiver cam ((s1.cr.get cam).beginFrame t))

/-- An INFO packet's five fields (R53). -/
def infoOf (p : List Byte) : Info :=
  { counter := BitVec.ofNat 16 (field p 0 2), brightness := BitVec.ofNat 16 (field p 2 2)
    exposure := BitVec.ofNat 16 (field p 4 2), gainCode := p.getD 6 0#8, temperature := p.getD 7 0#8 }

/-- An INFO is good: 10 bytes, and the CRC over the first eight is the one it carries (R53). -/
def infoGood (p : List Byte) : Bool := p.length == 10 && (crc (p.take 8)).toNat == field p 8 2

/-- The check of an INFO in RECEIVING (R60). -/
def Receiver.takeInfo (r : Receiver) (f : OpenFrame) (p : List Byte) (t : Stamp) : Receiver :=
  match f.info with
  | some _ => r.fail f .struct t (some f.next)
  | none =>
    if infoGood p then { r with openFrame := some { f with info := some (infoOf p) } } else r.fail f .infoCrc t none

/-- Line entries that occupy the write FIFO's line space (R67). -/
def lineEntries (l : List FifoEntry) : Nat :=
  l.countP fun e => match e with
    | .line _ _ _ => true
    | _ => false

/-- The checks of a LINE in RECEIVING, in their order, and its placing (R61, R69). -/
def Receiver.takeLine (r : Receiver) (f : OpenFrame) (p : List Byte) (t : Stamp) : Receiver :=
  let index := field p 0 2
  if f.info.isNone then r.fail f .infoCrc t none
  else if p.length < 2 then r.fail f .lineLength t (some f.next)
  else if f.next = r.height then r.fail f .struct t (some r.height)
  else if index ≠ f.next then r.fail f .struct t (some f.next)
  else if p.length - 2 ≠ 2 * r.width then r.fail f .lineLength t (some index)
  else if Config.writeFifoLines ≤ lineEntries r.fifo then r.fail f .overflow t (some index)
  else
    { r with openFrame := some { f with next := f.next + 1 }, fifo := r.fifo ++ [.line index (p.drop 2) 0] }

/-- A packet that only a RECEIVING frame takes notice of (R57): elsewhere it is ignored, but restarts the silence
timing where that runs. -/
def receive (t : Stamp) (cam : Camera) (f : Receiver → OpenFrame → Receiver) (s : State) :
    Host.Outcome State Fault Refusal :=
  let r := (s.cr.get cam).touch t
  let r' :=
    if r.qual.timed then
      match r.openFrame with
      | some o => if o.failure.isNone then f r o else r
      | none => r
    else r
  .next ((s.arrive t).setReceiver cam r')

/-- INFO (R60). -/
def execInfo (t : Stamp) (cam : Camera) (payload : List Byte) (s : State) : Host.Outcome State Fault Refusal :=
  receive t cam (fun r f => r.takeInfo f payload t) s

/-- LINE (R61). -/
def execLine (t : Stamp) (cam : Camera) (payload : List Byte) (s : State) : Host.Outcome State Fault Refusal :=
  receive t cam (fun r f => r.takeLine f payload t) s

/-- FOREIGN_PACKET (R62); a packet of a known type is no foreign packet. -/
def execForeignPacket (t : Stamp) (cam : Camera) (type : Byte) (_payload : List Byte) (s : State) :
    Host.Outcome State Fault Refusal :=
  if packetType type = .foreign then receive t cam (fun r f => r.fail f .struct t (some f.next)) s
  else .next (s.arrive t)

/-- FRAME_CLOSE (R63). -/
def execFrameClose (t : Stamp) (cam : Camera) (_payload : List Byte) (s : State) : Host.Outcome State Fault Refusal :=
  let r := (s.cr.get cam).touch t
  let s0 := (s.arrive t).setReceiver cam r
  if r.qual.timed then
    match r.openFrame with
    | none => .next s0
    | some f =>
      match judgeFrame f r.height t with
      | .inl x => .next (s0.closeBad cam f x t)
      | .inr i => .next (s0.closeGood cam i t)
  else .next s0

/-! ### Silence -/

/-- The receiver after a silence expiry (R86, steps 1, 3 and 4). -/
def Receiver.silence (r : Receiver) : Receiver :=
  { r with
    qual := .noSignal, goodRun := 0, badRun := 0, openFrame := none, prevOpen := none, bprev := none
    lastPublished := none
    fifo :=
      r.fifo ++ (if r.openFrame.isSome then [.abandonReq] else []) ++ (if r.qual.qualified then [.dropReadyReq] else [])
    counters :=
      if r.openFrame.isSome then { r.counters with abandoned := r.counters.abandoned + 1 } else r.counters }

/-- SILENCE_EXPIRY: the timebase has reached the last-arrival stamp plus the threshold (R85, R86). -/
def execSilenceExpiry (t : Stamp) (cam : Camera) (s : State) : Host.Outcome State Fault Refusal :=
  let r := s.cr.get cam
  if r.qual.timed && t == r.lastArrival + BitVec.ofNat 32 r.threshold then
    let s0 := s.arrive t
    if r.qual.qualified then
      let counter := r.openFrame.bind fun f => f.info.map Info.counter
      .next (((s0.handFault ⟨.cam cam, .silence, t, counter, none, none⟩).setReceiver cam r.silence).raise
        .qualificationLost (.cam cam) 0 t)
    else .next (s0.setReceiver cam r.silence)
  else .next (s.arrive t)

/-! ### Requests on a port -/

/-- SET_CAMERA (R56): camera number, then state, then fields. -/
def reqSetCamera (p : List Byte) (s : State) : Served :=
  whenReady s <| whenLength s p 20 <| withIndex s (field p 0 1) fun c =>
    let r := s.cr.get c
    if r.qual.enabled then refuse s .wrongState
    else if (descriptorOf p).inRange then accept (s.setReceiver c { r with descriptor := some (descriptorOf p) })
    else refuse s .badValue

def execSetCamera (t : Stamp) (tag : Byte) (payload : List Byte) (s : State) : Host.Outcome State Fault Refusal :=
  serve 0x10#8 t tag payload (reqSetCamera payload) s

/-- ENABLE_CAMERA (R78): a DISABLED port with a set descriptor goes to NO_SIGNAL with its threshold fixed (R84). -/
def reqEnableCamera (p : List Byte) (s : State) : Served :=
  whenReady s <| whenLength s p 1 <| withIndex s (field p 0 1) fun c =>
    let r := s.cr.get c
    if r.qual.enabled then accept s
    else
      match r.descriptor with
      | none => refuse s .wrongState
      | some d =>
        accept (s.setReceiver c
          { r with qual := .noSignal, goodRun := 0, badRun := 0, threshold := silenceThreshold d })

def execEnableCamera (t : Stamp) (tag : Byte) (payload : List Byte) (s : State) : Host.Outcome State Fault Refusal :=
  serve 0x11#8 t tag payload (reqEnableCamera payload) s

/-- The receiver after DISABLE_CAMERA (R72, R75, R87). -/
def Receiver.disable (r : Receiver) : Receiver :=
  { r with
    qual := .disabled, goodRun := 0, badRun := 0, openFrame := none, prevOpen := none, fifo := [], bprev := none
    lastPublished := none
    counters :=
      if r.openFrame.isSome then { r.counters with abandoned := r.counters.abandoned + 1 } else r.counters }

/-- DISABLE_CAMERA (R87, R101; in DISABLED the ring is released all the same, log entry 19). -/
def reqDisableCamera (p : List Byte) (s : State) : Served :=
  whenReady s <| whenLength s p 1 <| withIndex s (field p 0 1) fun c =>
    let s' := s.releaseRing c
    accept (s'.setReceiver c (s'.cr.get c).disable)

def execDisableCamera (t : Stamp) (tag : Byte) (payload : List Byte) (s : State) : Host.Outcome State Fault Refusal :=
  serve 0x12#8 t tag payload (reqDisableCamera payload) s

/-- The receiver after RESET_CAMERA, and after RESTART (R72, R75, R88, R89). -/
def Receiver.restart (r : Receiver) : Receiver :=
  { r with
    qual := if r.qual.enabled then .noSignal else .disabled
    goodRun := 0, badRun := 0, openFrame := none, prevOpen := none, fifo := [], lastInfo := none, bprev := none
    lastPublished := none, counters := .zero }

/-- A gain of 256 clamped into the range in force (R145). -/
def HU.unity (h : HU) : Nat := clampNat 256 h.settings.gmin h.settings.gmax

/-- RESET_CAMERA sets the camera's gain and clears its relief flag (R145). -/
def HU.resetCamera (h : HU) (c : Camera) : HU :=
  { h with gains := h.gains.set c h.unity, relief := h.relief.set c false }

/-- RESET_CAMERA (R88, R101, R145, R157). -/
def reqResetCamera (p : List Byte) (s : State) : Served :=
  whenReady s <| whenLength s p 1 <| withIndex s (field p 0 1) fun c =>
    let s' := s.releaseRing c
    accept (((s'.setReceiver c (s'.cr.get c).restart).setHu (s'.hu.resetCamera c)).setFu (s'.fu.resetCamera c))

def execResetCamera (t : Stamp) (tag : Byte) (payload : List Byte) (s : State) : Host.Outcome State Fault Refusal :=
  serve 0x13#8 t tag payload (reqResetCamera payload) s

end Sys2Proof.Machine
end

