-- ==== Sys2Proof/Machine/Harmonise.lean ====
section
/-! DEFINITION. The harmonisation unit: the frame-end update and its requests (Chapter 7). -/
namespace Sys2Proof.Machine

/-- A seam is usable under Nmin (R137). -/
def usable (nmin : Nat) (q : SeamSums) : Bool := nmin ≤ q.n

/-- The camera's own sums over its usable seams: b-camera of seam c - 1, a-camera of seam c (R137). -/
def ownSum (nmin : Nat) (q : Quad SeamSums) (c : Camera) : Nat :=
  (if usable nmin (q.get (c - 1)) then (q.get (c - 1)).sb else 0) + (if usable nmin (q.get c) then (q.get c).sa else 0)

/-- The neighbours' sums in the same seams (R137). -/
def neighbourSum (nmin : Nat) (q : Quad SeamSums) (c : Camera) : Nat :=
  (if usable nmin (q.get (c - 1)) then (q.get (c - 1)).sa else 0) + (if usable nmin (q.get c) then (q.get c).sb else 0)

/-- The target ratio T (R138). -/
def targetRatio (own nbr : Nat) : Nat := min 1024 ((128 * (own + nbr) + own / 2) / own)

/-- The target gain Gt (R138). -/
def targetGain (g t : Nat) : Nat := (g * t + 128) / 256

/-- The allowed step (R139, step 1). -/
def allowedStep (h : HarmSettings) (relief : Bool) : Nat := if relief && h.relief then 4 * h.stepLimit else h.stepLimit

/-- The limited move (R139, step 2). -/
def limitedMove (g gt step : Nat) : Int := clampInt ((gt : Int) - g) (-(step : Int)) step

/-- The new gain (R139, step 3). -/
def movedGain (h : HarmSettings) (g : Nat) (delta : Int) : Nat := (clampInt (g + delta) h.gmin h.gmax).toNat

/-- One camera's outcome in an update (R137, R141). -/
def updateOutcome (h : HarmSettings) (q : Quad SeamSums) (c : Camera) : UpdateOutcome :=
  if !h.auto then .heldOff
  else if !usable h.nmin (q.get (c - 1)) && !usable h.nmin (q.get c) then .heldNoSeam
  else if ownSum h.nmin q c = 0 then .heldOwnZero
  else .updated

/-- One camera's update (R136 to R141). -/
def updateCamera (h : HarmSettings) (tot : Totals) (gain : Nat) (relief : Bool) (c : Camera) : CamUpdate :=
  let outcome := updateOutcome h tot.seams c
  let base : CamUpdate :=
    { coverage := tot.coverage.get c, outcome := outcome, oldGain := gain, reliefUsed := relief && h.relief, move := none
      newGain := gain }
  match outcome with
  | .updated =>
    let t := targetRatio (ownSum h.nmin tot.seams c) (neighbourSum h.nmin tot.seams c)
    let delta := limitedMove gain (targetGain gain t) (allowedStep h relief)
    { base with move := some (t, delta), newGain := movedGain h gain delta }
  | _ => base

/-- The frame-end update (R136, R144). -/
def HU.update (h : HU) (frameNo : Count) (tot : Totals) : HU :=
  let cams : Quad CamUpdate := .ofFn fun c => updateCamera h.settings tot (h.gains.get c) (h.relief.get c) c
  { h with
    gains := cams.map CamUpdate.newGain
    relief := .all false
    last := some ⟨frameNo, h.settings.auto, tot.seams.map fun q => (q, usable h.settings.nmin q), cams⟩ }

/-- RESTART on the harmonisation unit (R145). -/
def HU.restart (h : HU) : HU := { h with gains := .all h.unity, relief := .all false, last := none }

/-- SET_HARMONISE's settings in force, the held gains clamped into the new range (R142). -/
def HU.configure (h : HU) (n : HarmSettings) : HU :=
  { h with settings := n, gains := h.gains.map fun g => clampNat g n.gmin n.gmax }

def gainBytes (q : Quad Nat) : List Byte := q.toList.flatMap (leBytes 2)

/-- SET_HARMONISE (R142). -/
def reqSetHarmonise (p : List Byte) (s : State) : Served :=
  whenReady s <| whenLength s p 9 <|
    match harmSettingsOf p with
    | some n =>
      let h := s.hu.configure n
      .reply (s.setHu h) (if harmAdjusted p then .adjusted else .ok) (n.bytes ++ gainBytes h.gains)
    | none => refuse s .badValue

def execSetHarmonise (t : Stamp) (tag : Byte) (payload : List Byte) (s : State) : Host.Outcome State Fault Refusal :=
  serve 0x30#8 t tag payload (reqSetHarmonise payload) s

/-- SET_GAIN (R143). -/
def reqSetGain (p : List Byte) (s : State) : Served :=
  whenReady s <| whenLength s p 3 <| withIndex s (field p 0 1) fun c =>
    let g := clampNat (field p 1 2) s.hu.settings.gmin s.hu.settings.gmax
    .reply (s.setHu { s.hu with gains := s.hu.gains.set c g }) (if g = field p 1 2 then .ok else .adjusted) (leBytes 2 g)

def execSetGain (t : Stamp) (tag : Byte) (payload : List Byte) (s : State) : Host.Outcome State Fault Refusal :=
  serve 0x31#8 t tag payload (reqSetGain payload) s

end Sys2Proof.Machine
end

