-- ==== Sys2Proof/Machine/Views.lean ====
section
/-! DEFINITION. The view store: slots, zones, body conditions and fill colour (Chapter 2). -/
namespace Sys2Proof.Machine

/-- Replace one view slot. -/
def VS.setSlot (v : VS) (i : Fin 4) (x : ViewSlot) : VS := { v with slots := v.slots.set i x }

def ViewSlot.enter (x : ViewSlot) (st : ViewState) : ViewSlot := { x with state := st }

/-- Every slot in one state goes to another. -/
def moveSlots (q : Quad ViewSlot) (a b : ViewState) : Quad ViewSlot :=
  q.map fun x => if x.state = a then x.enter b else x

/-- CLEAR_VIEW (R31). -/
def reqClearView (p : List Byte) (s : State) : Served :=
  whenReady s <| whenLength s p 1 <| withIndex s (field p 0 1) fun v =>
    match (s.vs.slots.get v).state with
    | .empty | .loading | .ready => accept (s.setVs (s.vs.setSlot v .reset))
    | .closing | .pending | .active => refuse s .wrongState

def execClearView (t : Stamp) (tag : Byte) (payload : List Byte) (s : State) : Host.Outcome State Fault Refusal :=
  serve 0x20#8 t tag payload (reqClearView payload) s

/-- Write consecutive node records and their marks (R32). -/
def putNodes (nodes : List (Nat × NodeRecord)) (first : Nat) : List NodeRecord → List (Nat × NodeRecord)
  | [] => nodes
  | r :: rest => putNodes (keyPut nodes first r) (first + 1) rest

/-- A run of node indices lies in the table, and its count in 1..16 (R33, R39). -/
def nodeRunOk (first count : Nat) : Bool := 1 ≤ count && count ≤ 16 && first + count ≤ Config.nodeCount

/-- LOAD_NODES: ranges and length, then state, then contents, all or nothing (R30, R32, R33). -/
def reqLoadNodes (p : List Byte) (s : State) : Served :=
  whenReady s <|
    if 4 ≤ p.length ∧ p.length = 4 + 28 * field p 3 1 ∧ nodeRunOk (field p 1 2) (field p 3 1) then
      withIndex s (field p 0 1) fun v =>
        let records := nodeRecordsOf p (field p 3 1)
        match (s.vs.slots.get v).state with
        | .empty | .loading =>
          if records.all nodeRecordInRange then
            accept (s.setVs (s.vs.setSlot v ⟨.loading, putNodes (s.vs.slots.get v).nodes (field p 1 2) records⟩))
          else refuse s .badValue
        | .closing | .ready | .pending | .active => refuse s .wrongState
    else refuse s .badValue

def execLoadNodes (t : Stamp) (tag : Byte) (payload : List Byte) (s : State) : Host.Outcome State Fault Refusal :=
  serve 0x21#8 t tag payload (reqLoadNodes payload) s

/-- CLOSE_VIEW of a LOADING slot starts the scan and occupies the executor (R35). -/
def reqCloseView (t : Stamp) (tag : Byte) (p : List Byte) (s : State) : Served :=
  whenReady s <| whenLength s p 1 <| withIndex s (field p 0 1) fun v =>
    match (s.vs.slots.get v).state with
    | .loading =>
      .later ((s.setVs (s.vs.setSlot v ((s.vs.slots.get v).enter .closing))).setLc
        { s.lc with closing := some ⟨tag, v, t⟩ })
    | .empty | .closing | .ready | .pending | .active => refuse s .wrongState

def execCloseView (t : Stamp) (tag : Byte) (payload : List Byte) (s : State) : Host.Outcome State Fault Refusal :=
  serve 0x22#8 t tag payload (reqCloseView t tag payload) s

/-- The unwritten nodes in rising order (R38). -/
def unwritten (nodes : List (Nat × NodeRecord)) : List Nat :=
  (List.range Config.nodeCount).filter fun i => (keyGet nodes i).isNone

/-- All four corners of a cell carry a coordinate for the camera (R37). -/
def cellCovered (nodes : List (Nat × NodeRecord)) (c : Camera) (i j : Nat) : Bool :=
  (cornerCoords ((cornerIndices i j).map (nodeAt nodes)) c).isSome

/-- The cell count of a camera (R37). -/
def cellCount (nodes : List (Nat × NodeRecord)) (c : Camera) : Nat :=
  ((List.range Config.cellRows).map fun j =>
    (List.range Config.cellColumns).countP fun i => cellCovered nodes c i j).sum

/-- SCAN_COMPLETE: 3,000 microseconds after its start the scan finds the slot whole or not (R35, R37, R38). -/
def execScanComplete (t : Stamp) (s : State) : Host.Outcome State Fault Refusal :=
  match s.lc.closing with
  | none => .next (s.arrive t)
  | some k =>
    if t = k.start + Config.scanTime then
      let x := s.vs.slots.get k.slot
      let lc := { s.lc with closing := none }
      let s0 := s.arrive t
      match unwritten x.nodes with
      | [] =>
        .next ((s0.setVs (s.vs.setSlot k.slot (x.enter .ready))).setLc
          (lc.placeExecutor 0x22#8 k.tag .ok (cameras.flatMap fun c => leBytes 2 (cellCount x.nodes c))))
      | i :: rest =>
        .next ((s0.setVs (s.vs.setSlot k.slot (x.enter .loading))).setLc
          (lc.placeExecutor 0x22#8 k.tag .badValue (leBytes 2 i ++ leBytes 2 (rest.length + 1))))
    else .next (s.arrive t)

/-- SELECT_VIEW naming a slot (R40). -/
def reqSelectView (p : List Byte) (s : State) : Served :=
  whenReady s <| whenLength s p 1 <| withIndex s (field p 0 1) fun v =>
    let q := moveSlots s.vs.slots .pending .ready
    match (s.vs.slots.get v).state with
    | .ready =>
      accept (s.setVs { s.vs with slots := q.set v ((q.get v).enter .pending), selection := .slot v })
    | .pending => accept s
    | .active => accept (s.setVs { s.vs with slots := q, selection := .nonePending })
    | .empty | .loading | .closing => refuse s .wrongState

/-- SELECT_VIEW: payload FFh is the row SELECT_VIEW_NONE. -/
def execSelectView (t : Stamp) (tag : Byte) (payload : List Byte) (s : State) : Host.Outcome State Fault Refusal :=
  if payload = [0xFF#8] then .next (s.arrive t) else serve 0x23#8 t tag payload (reqSelectView payload) s

/-- SELECT_VIEW(NONE) (R41). -/
def reqSelectViewNone (s : State) : Served :=
  whenReady s <|
    accept (s.setVs { s.vs with slots := moveSlots s.vs.slots .pending .ready, selection := .withdraw })

def execSelectViewNone (t : Stamp) (tag : Byte) (payload : List Byte) (s : State) : Host.Outcome State Fault Refusal :=
  if payload = [0xFF#8] then serve 0x23#8 t tag payload reqSelectViewNone s else .next (s.arrive t)

/-- A node as READ_NODES returns it: its mark, then its record (R39, R179). -/
def nodeReply (nodes : List (Nat × NodeRecord)) (i : Nat) : List Byte :=
  flagByte (keyGet nodes i).isSome :: nodeRecordBytes (nodeAt nodes i)

/-- READ_NODES (R39). -/
def reqReadNodes (p : List Byte) (s : State) : Served :=
  whenReady s <| whenLength s p 4 <|
    if nodeRunOk (field p 1 2) (field p 3 1) then
      withIndex s (field p 0 1) fun v =>
        let x := s.vs.slots.get v
        match x.state with
        | .loading | .ready | .pending | .active =>
          .reply s .ok ((List.range (field p 3 1)).flatMap fun k => nodeReply x.nodes (field p 1 2 + k))
        | .empty | .closing => refuse s .wrongState
    else refuse s .badValue

def execReadNodes (t : Stamp) (tag : Byte) (payload : List Byte) (s : State) : Host.Outcome State Fault Refusal :=
  serve 0x24#8 t tag payload (reqReadNodes payload) s

/-- SET_ZONE (R45). -/
def reqSetZone (p : List Byte) (s : State) : Served :=
  whenReady s <| whenLength s p 9 <| withIndex s (field p 0 1) fun c => withIndex s (field p 1 1) fun z =>
    match zoneOf (field p 2 1) (field p 3 1) (field p 4 1) (field p 5 1) (field p 6 1) (field p 7 1) (field p 8 1) with
    | some x => accept (s.setVs { s.vs with zones := s.vs.zones.set c ((s.vs.zones.get c).set z x) })
    | none => refuse s .badValue

def execSetZone (t : Stamp) (tag : Byte) (payload : List Byte) (s : State) : Host.Outcome State Fault Refusal :=
  serve 0x28#8 t tag payload (reqSetZone payload) s

/-- SET_BODY (R46). -/
def reqSetBody (p : List Byte) (s : State) : Served :=
  whenReady s <| whenLength s p 1 <|
    if field p 0 1 ≤ 15 then accept (s.setVs { s.vs with pendingBody := BitVec.ofNat 4 (field p 0 1) })
    else refuse s .badValue

def execSetBody (t : Stamp) (tag : Byte) (payload : List Byte) (s : State) : Host.Outcome State Fault Refusal :=
  serve 0x29#8 t tag payload (reqSetBody payload) s

/-- SET_FILL (R47). -/
def reqSetFill (p : List Byte) (s : State) : Served :=
  whenReady s <| whenLength s p 3 <|
    accept (s.setVs { s.vs with fill := ⟨p.getD 0 0#8, p.getD 1 0#8, p.getD 2 0#8⟩ })

def execSetFill (t : Stamp) (tag : Byte) (payload : List Byte) (s : State) : Host.Outcome State Fault Refusal :=
  serve 0x2A#8 t tag payload (reqSetFill payload) s

/-- The take of the pending selection at an output frame start, without its notice (R42). -/
def VS.takeSelection (v : VS) : VS :=
  match v.selection with
  | .nonePending => v
  | .slot i =>
    let q := moveSlots v.slots .active .ready
    { v with slots := q.set i ((q.get i).enter .active), selection := .nonePending }
  | .withdraw => { v with slots := moveSlots v.slots .active .ready, selection := .nonePending }

/-- The slot that is ACTIVE, or none. -/
def VS.activeSlot (v : VS) : Option (Fin 4) := v.slots.find fun x => x.state == .active

/-- The source and detail of the VIEW_TAKEN notice of a take, if it raises one (R42). -/
def VS.takeNotice (v : VS) : Option (NoticeSource × Nat) :=
  match v.selection with
  | .nonePending => none
  | .slot i => some (.view i, i.val)
  | .withdraw => if v.activeSlot.isSome then some (.part, 0) else none

/-- RESTART on the view store (R49). -/
def VS.restart (v : VS) : VS :=
  { v with
    slots := moveSlots (moveSlots v.slots .active .ready) .pending .ready
    selection := .nonePending, pendingBody := 0#4, body := 0#4 }

end Sys2Proof.Machine
end

