-- ==== Sys2Proof/Machine/Pacing.lean ====
section
/-! DEFINITION. Pacing, frame starts and frame ends, the output port, and the reset of the whole part (Chapter 6, R177). -/
namespace Sys2Proof.Machine

/-! ### Run state -/

/-- A frame is in progress: between a frame start and its frame end (R22, R117). -/
def State.frameInProgress (s : State) : Bool := s.ce.state != .idle

/-- The output port goes idle (R128). -/
def OP.goIdle (o : OP) : OP := { o with idle := true, counter := 0, inFrame := false, fifo := [], emitting := none }

/-- The output port leaves idle at START (R125, R128). -/
def OP.begin (o : OP) (t : Stamp) : OP :=
  { o with idle := false, counter := 0, origin := t, inFrame := false, emitting := none }

/-- The part becomes STOPPED by a STOP: HELD slots freed, the port idle, OUTPUT_STOPPED raised (R104, R117, R123). -/
def State.stopOutput (s : State) (t : Stamp) : State :=
  (((s.setPu { s.pu with run := .stopped }).setFmc { s.fmc with rings := s.fmc.rings.map ringStop }).setOp
    s.op.goIdle).raise .outputStopped .output 0 t

/-- START (R115). -/
def reqStart (t : Stamp) (p : List Byte) (s : State) : Served :=
  whenReady s <| whenLength s p 0 <|
    match s.pu.run with
    | .stopped =>
      accept ((s.setPu { s.pu with run := .running, compare := t + Config.startLead, frameNo := 0#32 }).setOp
        (s.op.begin t))
    | .stopping => refuse s .wrongState
    | .running | .startup | .memoryFault => accept s

def execStart (t : Stamp) (tag : Byte) (payload : List Byte) (s : State) : Host.Outcome State Fault Refusal :=
  serve 0x03#8 t tag payload (reqStart t payload) s

/-- STOP (R117). -/
def reqStop (t : Stamp) (p : List Byte) (s : State) : Served :=
  whenReady s <| whenLength s p 0 <|
    match s.pu.run with
    | .running =>
      if s.frameInProgress then accept (s.setPu { s.pu with run := .stopping }) else accept (s.stopOutput t)
    | .stopped | .stopping | .startup | .memoryFault => accept s

def execStop (t : Stamp) (tag : Byte) (payload : List Byte) (s : State) : Host.Outcome State Fault Refusal :=
  serve 0x04#8 t tag payload (reqStop t payload) s

/-- SET_TIMING (R114). -/
def reqSetTiming (p : List Byte) (s : State) : Served :=
  whenReady s <| whenLength s p 8 <|
    let per := clampNat (field p 0 4) 31488 100000
    let age := clampNat (field p 4 4) 10000 200000
    .reply (s.setPu { s.pu with pendingPeriod := per, maxAge := age })
      (if per = field p 0 4 ∧ age = field p 4 4 then .ok else .adjusted) (leBytes 4 per ++ leBytes 4 age)

def execSetTiming (t : Stamp) (tag : Byte) (payload : List Byte) (s : State) : Host.Outcome State Fault Refusal :=
  serve 0x06#8 t tag payload (reqSetTiming payload) s

/-! ### RESTART and power-on -/

/-- The transfer in progress is cut short by RESTART (R104). -/
def State.cutTransfer (s : State) : State :=
  match s.fmc.transfer with
  | some (.writer c) => s.cutWriter c
  | some (.taps _ _ _ _ _ _ _ _ _ _) => s.setFmc { s.fmc with transfer := none }
  | none => s

/-- RESTART in STOPPED, RUNNING or STOPPING, on every block but the link controller (R177). -/
def State.restart (s : State) : State :=
  let s' := s.cutTransfer
  { s' with
    cr := s'.cr.map Receiver.restart
    fmc := { s'.fmc with rings := .all (.all .free) }
    vs := s'.vs.restart
    pu := { s'.pu with run := .stopped }
    ce := .reset
    op := .reset
    hu := s'.hu.restart
    fu := s'.fu.restart
    nq := s'.nq.restart }

/-- RESTART (R109, R177): refused in STARTUP, initialisation again in MEMORY_FAULT, else the restart. -/
def reqRestart (t : Stamp) (p : List Byte) (s : State) : Served :=
  match s.pu.run with
  | .startup => refuse s .notReady
  | .memoryFault =>
    whenLength s p 0 <|
      accept ((s.setPu { s.pu with run := .startup }).setFmc { s.fmc with init := .training t })
  | .stopped | .running | .stopping => whenLength s p 0 <| accept s.restart

def execRestart (t : Stamp) (tag : Byte) (payload : List Byte) (s : State) : Host.Outcome State Fault Refusal :=
  serve 0x05#8 t tag payload (reqRestart t payload) s

/-- POWER_ON: every block at its power-on state, the timebase at 0, the straps sampled (R111, R167). -/
def execPowerOn (rate1 rate0 : Bool) (s : State) : Host.Outcome State Fault Refusal :=
  .next { State.reset with
    lc := { LC.reset with rate1 := rate1, rate0 := rate0 }
    free := s.free
    pending := s.pending }

/-! ### The output frame start -/

/-- The reload of the pacing record at a frame start (R116). -/
def PU.reload (p : PU) : PU :=
  { p with
    periodInForce := p.pendingPeriod
    compare := p.compare + BitVec.ofNat 32 p.pendingPeriod
    frameNo := p.frameNo + 1 }

/-- The port is LOCKED or HOLDOVER and the camera is not withheld (R119). -/
def composable (r : Receiver) (withheld : Bool) : Bool := r.qual.qualified && !withheld

/-- The start class of a camera from its port, the withheld set and the take outcome (R119, R120). -/
def startClass (r : Receiver) (withheld : Bool) (o : TakeOutcome) : StartClass :=
  match r.qual with
  | .disabled => .disabled
  | .noSignal | .acquiring => .notQualified
  | .locked | .holdover =>
    if withheld then .withheld
    else
      match o with
      | .taken rep i n age => .taken ⟨i, n, age, rep, r.width, r.height⟩
      | .stale age => .stale age
      | .notComposable => .stale none

/-- A camera that the take found STALE raises its notice (R120). -/
def State.raiseStale (cls : Quad StartClass) (t : Stamp) (s : State) (c : Camera) : State :=
  match cls.get c with
  | .stale _ => s.raise .stale (.cam c) 0 t
  | _ => s

/-- The take of every ring at a frame start (R102). -/
def takes (s : State) (withheld : Quad Bool) (t : Stamp) : Quad (Ring × TakeOutcome) :=
  .ofFn fun c => ringTake (s.fmc.rings.get c) (composable (s.cr.get c) (withheld.get c)) t s.pu.maxAge

/-- The view store at a frame start: the pending selection is taken, the pending body set is in force (R42, R46). -/
def VS.frameStart (v : VS) : VS := { v.takeSelection with body := v.pendingBody }

/-- The output port at a frame start: line period 0 begins, the underrun count is clear, the FIFO is empty (R24, R125,
R127). -/
def OP.frameStart (o : OP) (t : Stamp) : OP :=
  { o with idle := false, counter := 0, origin := t, inFrame := true, fifo := [], emitting := none, underruns := 0 }

/-- The composition set that a frame start fixes (R118). -/
def compSetOf (frameNo : Count) (t : Stamp) (v : VS) (gains : Quad Nat) (withheld : Quad Bool) (cls : Quad StartClass) :
    CompSet :=
  { frameNo := frameNo, start := t, view := v.activeSlot, body := v.body, zones := v.zones, fill := v.fill
    gains := gains, withheld := withheld, cams := cls }

/-- The engine at a frame start: the composition set fixed, cut set and totals clear, line 0 begun (R22, R118). -/
def CE.frameStart (ce : CE) (nodes : List (Nat × NodeRecord)) (set : CompSet) : CE :=
  { ce with set := some set, cut := .all false, totals := .zero }.beginLine nodes 0

/-- The output frame start, in the order of R116 and R118. -/
def State.startFrame (s : State) (t : Stamp) : State :=
  let pu := s.pu.reload
  let vs := s.vs.frameStart
  let fu := s.fu.evaluate pu.frameNo
  let took := takes s fu.withheld t
  let cls : Quad StartClass := .ofFn fun c => startClass (s.cr.get c) (fu.withheld.get c) (took.get c).2
  let set := compSetOf pu.frameNo t vs s.hu.gains fu.withheld cls
  let s1 := (s.setPu pu).setVs vs
  let s2 :=
    match s.vs.takeNotice with
    | some (src, d) => s1.raise .viewTaken src d t
    | none => s1
  let s3 := (s2.setFu fu).setFmc { s.fmc with rings := took.map Prod.fst }
  let s4 := cameras.foldl (State.raiseStale cls t) s3
  let nodes := match set.view with
    | some v => (vs.slots.get v).nodes
    | none => []
  (s4.setCe (s.ce.frameStart nodes set)).setOp (s.op.frameStart t)

/-- OUTPUT_FRAME_START: in RUNNING the timebase has reached the compare value; the engine is IDLE then (R116). -/
def execOutputFrameStart (t : Stamp) (s : State) : Host.Outcome State Fault Refusal :=
  if s.pu.run = .running ∧ t = s.pu.compare ∧ s.ce.state = .idle then .next ((s.arrive t).startFrame t)
  else .next (s.arrive t)

/-! ### Line periods -/

/-- Line k is missing at its emission: fill, count, UNDERRUN, and the engine abandons it (R25, R127). -/
def State.underrun (s : State) (k : Nat) (t : Stamp) : State :=
  let fill := match s.ce.set with
    | some set => set.fill
    | none => s.vs.fill
  ((s.setOp { s.op with emitting := some (fillLine fill), underruns := s.op.underruns + 1 }).handFault
    ⟨.output, .underrun, t, none, some k, none⟩).setCe (s.ce.abandonLine s.nodes k)

/-- The beginning of active line k (R126). -/
def State.emitLine (s : State) (k : Nat) (t : Stamp) : State :=
  match s.op.fifo with
  | (j, l) :: rest =>
    if j = k then (s.setOp { s.op with fifo := rest, emitting := some l }).setCe (s.ce.lineLeft s.nodes)
    else s.underrun k t
  | [] => s.underrun k t

/-- The next line period is due: the port is not idle, 32 microseconds have passed since the last one began, no frame
start takes its place, and the last active line period has ended with its frame end (R125). -/
def State.periodDue (s : State) (t : Stamp) : Bool :=
  !s.op.idle && t == s.op.origin + Config.linePeriod * BitVec.ofNat 32 (s.op.counter + 1) &&
  !(s.pu.run == .running && t == s.pu.compare) &&
  !(s.op.inFrame && s.op.counter == Config.lastActivePeriod && s.frameInProgress)

/-- LINE_PERIOD_START (R125, R126). -/
def execLinePeriodStart (t : Stamp) (s : State) : Host.Outcome State Fault Refusal :=
  if s.periodDue t then
    let q := s.op.counter + 1
    let s' := (s.arrive t).setOp { s.op with counter := q, emitting := none }
    if s.op.inFrame ∧ Config.leadPeriods ≤ q ∧ q ≤ Config.lastActivePeriod then
      .next (s'.emitLine (q - Config.leadPeriods) t)
    else .next s'
  else .next (s.arrive t)

/-! ### The frame end -/

/-- A camera's record in the frame summary (R164). -/
def camSummary (k : StartClass) (cut : Bool) (coverage gain : Nat) : CamSummary :=
  match k with
  | .disabled => ⟨.disabled, none, none, false, coverage, gain⟩
  | .notQualified => ⟨.notQualified, none, none, false, coverage, gain⟩
  | .withheld => ⟨.withheld, none, none, false, coverage, gain⟩
  | .stale age => ⟨.stale, none, age, false, coverage, gain⟩
  | .taken x => ⟨if cut then .cut else .composed, some x.counter, some x.age, x.repeated, coverage, gain⟩

/-- The frame summary (R164). -/
def summaryOf (set : CompSet) (ce : CE) (underruns : Nat) : Summary :=
  { frameNo := set.frameNo, start := set.start, view := set.view, body := set.body
    seamCounts := ce.totals.seams.map SeamSums.n
    underruns := underruns
    cams := .ofFn fun c => camSummary (set.cams.get c) (ce.cut.get c) (ce.totals.coverage.get c) (set.gains.get c) }

/-- The work of a frame end: gain update, summary, the set released, the engine IDLE; in STOPPING the output stops
(R26, R122, R123). -/
def State.endFrame (s : State) (set : CompSet) (t : Stamp) : State :=
  let s1 := (s.setHu (s.hu.update set.frameNo s.ce.totals)).setNq
    { s.nq with history := appendSummary s.nq.history (summaryOf set s.ce s.op.underruns) }
  let s2 := s1.setCe { s.ce with state := .idle, line := 0, set := none, pixels := [], samples := [], acc := .zero }
  if s.pu.run = .stopping then s2.stopOutput t else s2

/-- FRAME_END: the end of line period 963, 30,848 microseconds after the frame start (R122). -/
def execFrameEnd (t : Stamp) (s : State) : Host.Outcome State Fault Refusal :=
  match s.ce.set with
  | some set =>
    if s.ce.state = .finished ∧ s.op.counter = Config.lastActivePeriod ∧ t = set.start + Config.frameEndOffset then
      .next ((s.arrive t).endFrame set t)
    else .next (s.arrive t)
  | none => .next (s.arrive t)

/-! ### The pins of the output port -/

/-- The levels of the output pins on one pixel clock (R124). -/
structure VideoPins where
  hsync : Bool
  vsync : Bool
  de : Bool
  y : Byte
  c : Byte
  deriving DecidableEq, Repr

/-- The samples of pixel `n` of a line: its luma, and Cb on even pixels, Cr on odd ones (R124). -/
def lanes (l : List OutPair) (n : Nat) : Byte × Byte :=
  match l[n / 2]? with
  | some p => if n % 2 = 0 then (p.y0, p.cb) else (p.y1, p.cr)
  | none => (16#8, 128#8)

/-- The pins on clock `n`, 0..863, of the line period in progress (R124, R128). -/
def OP.pins (o : OP) (n : Nat) : VideoPins :=
  if o.idle then ⟨false, false, false, 0#8, 0#8⟩
  else
    let hs := decide (n < 64)
    let vs := o.inFrame && decide (o.counter < 2)
    match o.emitting with
    | some l =>
      if 144 ≤ n ∧ n ≤ 863 then ⟨hs, vs, true, (lanes l (n - 144)).1, (lanes l (n - 144)).2⟩
      else ⟨hs, vs, false, 16#8, 128#8⟩
    | none => ⟨hs, vs, false, 16#8, 128#8⟩

end Sys2Proof.Machine
end

