-- ==== Sys2Proof/Machine/Reports.lean ====
section
/-! DEFINITION. The requests that report state, and those on faults and notices, with their byte layouts (R74, R150,
R155, R156, R159, R162, R165, R174 to R176, R179, R180). -/
namespace Sys2Proof.Machine

/-- An optional value: its presence byte, then its bytes, 0 when absent (R179). -/
def optBytes (n : Nat) (v : Option Nat) : List Byte := flagByte v.isSome :: leBytes n (v.getD 0)

/-! ### IDENTIFY -/

/-- The 18 identity bytes (R175). -/
def identityBytes : List Byte :=
  leBytes 2 0x01C7 ++ leBytes 2 0x0420 ++ leBytes 1 1 ++ leBytes 1 4 ++ leBytes 1 3 ++ leBytes 2 320 ++ leBytes 2 1920 ++
  leBytes 2 240 ++ leBytes 2 1280 ++ leBytes 2 Config.payloadMax ++ leBytes 1 Config.inboxDepth

/-- IDENTIFY (R175). -/
def reqIdentify (p : List Byte) (s : State) : Served := whenLength s p 0 <| .reply s .ok identityBytes

def execIdentify (t : Stamp) (tag : Byte) (payload : List Byte) (s : State) : Host.Outcome State Fault Refusal :=
  serve 0x01#8 t tag payload (reqIdentify payload) s

/-! ### GET_STATUS -/

def runBytes (s : State) : List Byte := leBytes 1 s.pu.run.code ++ leBytes 4 s.timebase.toNat

def pacingBytes (p : PU) : List Byte :=
  leBytes 4 p.compare.toNat ++ leBytes 4 p.periodInForce ++ leBytes 4 p.pendingPeriod ++ leBytes 4 p.maxAge ++
  leBytes 4 p.frameNo.toNat

def outputBytes (ce : CE) (o : OP) : List Byte :=
  leBytes 1 ce.state.code ++ leBytes 2 ce.reportedLine ++ leBytes 1 o.fifo.length ++ leBytes 2 o.counter ++
  leBytes 2 o.underruns

/-- A slot record's 12 bytes; what the record does not hold is carried as 0 (R110, R176). -/
def slotBytesOf (x : SlotRecord) : List Byte :=
  let rest : Bool × Nat × Nat × Nat := match x with
    | .free => (false, 0, 0, 0)
    | .filling o => (false, o.toNat, 0, 0)
    | .ready o c n => (false, o.toNat, c.toNat, n.toNat)
    | .held o c n p _ => (p, o.toNat, c.toNat, n.toNat)
  leBytes 1 x.code ++ flagByte rest.1 :: leBytes 4 rest.2.1 ++ leBytes 4 rest.2.2.1 ++ leBytes 2 rest.2.2.2

def ringBytes (q : Quad Ring) : List Byte := q.toList.flatMap fun r => r.toList.flatMap slotBytesOf

def viewBytes (v : VS) : List Byte :=
  (v.slots.toList.flatMap fun x => leBytes 1 x.state.code) ++ leBytes 1 v.selection.code ++
  leBytes 1 v.pendingBody.toNat ++ leBytes 1 v.body.toNat ++ [v.fill.y, v.fill.cb, v.fill.cr]

def camUpdateBytes (x : CamUpdate) : List Byte :=
  leBytes 4 x.coverage ++ leBytes 1 x.outcome.code ++ leBytes 2 x.oldGain ++ flagByte x.reliefUsed ::
  leBytes 2 ((x.move.map Prod.fst).getD 0) ++ leInt 2 ((x.move.map Prod.snd).getD 0) ++ leBytes 2 x.newGain

/-- The last update record's 114 bytes (R176). -/
def updateBytes (u : Option UpdateRecord) : List Byte :=
  match u with
  | none => leBytes 114 0
  | some u =>
    1#8 :: leBytes 4 u.frameNo.toNat ++ flagByte u.auto ::
    (u.seams.toList.flatMap fun e => leBytes 4 e.1.n ++ leBytes 4 e.1.sa ++ leBytes 4 e.1.sb ++ [flagByte e.2]) ++
    u.cams.toList.flatMap camUpdateBytes

def harmoniseBytes (h : HU) : List Byte :=
  h.settings.bytes ++ gainBytes h.gains ++ leBytes 1 (cameraBits h.relief) ++ updateBytes h.last

/-- The 20 bytes of the notice policy, threshold and polarity (R174). -/
def noticePolicyBytes (q : NQ) : List Byte :=
  (noticeKinds.flatMap fun k => [flagByte (q.policy.get k).masked, BitVec.ofNat 8 (q.policy.get k).priority.val]) ++
  leBytes 1 q.threshold.val ++ [flagByte q.activeHigh]

def noticeBytes (q : NQ) : List Byte :=
  leBytes 1 q.queue.length ++ flagByte q.lost :: flagByte q.attention :: leBytes 1 q.threshold.val ++
  flagByte q.activeHigh ::
  (noticeKinds.flatMap fun k => [flagByte (q.policy.get k).masked, BitVec.ofNat 8 (q.policy.get k).priority.val]) ++
  leBytes 1 q.history.length

/-- The 347 bytes of GET_STATUS (R176). -/
def statusBytes (s : State) : List Byte :=
  runBytes s ++ pacingBytes s.pu ++ outputBytes s.ce s.op ++ (s.cr.toList.flatMap fun r => leBytes 1 r.qual.code) ++
  ringBytes s.fmc.rings ++ viewBytes s.vs ++ harmoniseBytes s.hu ++ noticeBytes s.nq

/-- GET_STATUS (R176). -/
def reqGetStatus (p : List Byte) (s : State) : Served := whenLength s p 0 <| .reply s .ok (statusBytes s)

def execGetStatus (t : Stamp) (tag : Byte) (payload : List Byte) (s : State) : Host.Outcome State Fault Refusal :=
  serve 0x02#8 t tag payload (reqGetStatus payload) s

/-! ### GET_CAMERA -/

/-- The reception state's code and the next line (R57, R74). -/
def receptionBytes (o : Option OpenFrame) : List Byte :=
  match o with
  | none => leBytes 1 0 ++ leBytes 2 0
  | some f => leBytes 1 (if f.failure.isNone then 1 else 2) ++ leBytes 2 f.next

def infoBytes (i : Option Info) : List Byte :=
  match i with
  | none => leBytes 9 0
  | some i =>
    1#8 :: leBytes 2 i.counter.toNat ++ leBytes 2 i.brightness.toNat ++ leBytes 2 i.exposure.toNat ++
    [i.gainCode, i.temperature]

def counterBytes (n : StreamCounters) : List Byte :=
  [n.opened, n.good, n.badInfoCrc, n.badStructure, n.badLineLength, n.badOverflow, n.badPeriod, n.skipped, n.published,
    n.abandoned].flatMap fun x => leBytes 4 x.toNat

/-- The 84 bytes of GET_CAMERA (R74, R174). -/
def cameraBytes (r : Receiver) (gain : Nat) (relief : Bool) : List Byte :=
  flagByte r.descriptor.isSome :: ((r.descriptor.map Descriptor.bytes).getD (leBytes 19 0)) ++
  leBytes 1 r.qual.code ++ leBytes 1 r.goodRun ++ leBytes 1 r.badRun ++ receptionBytes r.openFrame ++
  infoBytes r.lastInfo ++ optBytes 2 (r.bprev.map BitVec.toNat) ++ optBytes 2 (r.lastPublished.map BitVec.toNat) ++
  leBytes 2 gain ++ flagByte relief :: counterBytes r.counters

/-- GET_CAMERA (R74). -/
def reqGetCamera (p : List Byte) (s : State) : Served :=
  whenReady s <| whenLength s p 1 <| withIndex s (field p 0 1) fun c =>
    .reply s .ok (cameraBytes (s.cr.get c) (s.hu.gains.get c) (s.hu.relief.get c))

def execGetCamera (t : Stamp) (tag : Byte) (payload : List Byte) (s : State) : Host.Outcome State Fault Refusal :=
  serve 0x14#8 t tag payload (reqGetCamera payload) s

/-! ### Faults -/

/-- The sticky sets, two bytes each (R174). -/
def stickyBytes (f : FU) : List Byte :=
  (f.sticky.toList.flatMap fun m => leBytes 2 (stickyWord m)) ++ leBytes 2 (stickyWord f.stickyOut)

/-- The first-fault record's 14 bytes (R174). -/
def firstFaultBytes (x : Option FirstFault) : List Byte :=
  match x with
  | none => leBytes 14 0
  | some x =>
    let f := x.fault
    let present := (if f.counter.isSome then 1 else 0) + (if f.line.isSome then 2 else 0) + (if f.slot.isSome then 4 else 0)
    1#8 :: leBytes 1 f.kind.code ++ leBytes 1 f.source.code ++ leBytes 4 f.stamp.toNat ++ leBytes 1 present ++
    leBytes 2 ((f.counter.map BitVec.toNat).getD 0) ++ leBytes 2 (f.line.getD 0) ++
    leBytes 1 ((f.slot.map Fin.val).getD 0) ++ [flagByte x.more]

def faultPolicyBytes (p : PerFault FaultPolicy) : List Byte :=
  faultKinds.flatMap fun k => [flagByte (p.get k).masked, flagByte (p.get k).containing]

/-- The 49 bytes of GET_FAULTS (R156, R174). -/
def faultBytes (f : FU) : List Byte :=
  stickyBytes f ++ firstFaultBytes f.first ++ faultPolicyBytes f.policy ++ leBytes 1 (cameraBits f.withheld) ++
  leBytes 4 f.withheldFrame.toNat

/-- GET_FAULTS (R156). -/
def reqGetFaults (p : List Byte) (s : State) : Served :=
  whenReady s <| whenLength s p 0 <| .reply s .ok (faultBytes s.fu)

def execGetFaults (t : Stamp) (tag : Byte) (payload : List Byte) (s : State) : Host.Outcome State Fault Refusal :=
  serve 0x38#8 t tag payload (reqGetFaults payload) s

/-- CLEAR_FAULTS (R155). -/
def reqClearFaults (p : List Byte) (s : State) : Served :=
  whenReady s <| whenLength s p 4 <|
    match flagOf (field p 3 1) with
    | some first =>
      if field p 0 1 ≤ 31 ∧ field p 1 2 ≤ 1023 then
        let f := s.fu.clear (field p 0 1) (field p 1 2) first
        .reply (s.setFu f) .ok (stickyBytes f ++ firstFaultBytes f.first)
      else refuse s .badValue
    | none => refuse s .badValue

def execClearFaults (t : Stamp) (tag : Byte) (payload : List Byte) (s : State) : Host.Outcome State Fault Refusal :=
  serve 0x39#8 t tag payload (reqClearFaults payload) s

/-- SET_FAULT_POLICY (R150). -/
def reqSetFaultPolicy (p : List Byte) (s : State) : Served :=
  whenReady s <| whenLength s p 3 <|
    match faultKindOf (field p 0 1), flagOf (field p 1 1), flagOf (field p 2 1) with
    | some k, some masked, some cont =>
      if cont && k.fixedSeverity then refuse s .badValue
      else
        .reply (s.setFu { s.fu with policy := s.fu.policy.set k ⟨masked, cont⟩ }) .ok [flagByte masked, flagByte cont]
    | _, _, _ => refuse s .badValue

def execSetFaultPolicy (t : Stamp) (tag : Byte) (payload : List Byte) (s : State) : Host.Outcome State Fault Refusal :=
  serve 0x3A#8 t tag payload (reqSetFaultPolicy payload) s

/-! ### Notices and history -/

/-- The 13 bytes of a notice record (R180). -/
def Notice.bytes (r : Notice) : List Byte :=
  leBytes 1 r.kind.code ++ leBytes 1 r.source.code ++ leBytes 1 r.detail ++ leBytes 1 r.priority.val ++
  leBytes 4 r.first.toNat ++ leBytes 4 r.last.toNat ++ leBytes 1 r.count

/-- FETCH_NOTICES (R162). -/
def reqFetchNotices (p : List Byte) (s : State) : Served :=
  whenReady s <| whenLength s p 1 <|
    let n := field p 0 1
    if 1 ≤ n ∧ n ≤ 8 then
      let got := s.nq.queue.take n
      .reply (s.setNq (s.nq.fetch n)) .ok
        (leBytes 1 got.length ++ flagByte s.nq.lost :: leBytes 1 (s.nq.queue.drop n).length ++ got.flatMap Notice.bytes)
    else refuse s .badValue

def execFetchNotices (t : Stamp) (tag : Byte) (payload : List Byte) (s : State) : Host.Outcome State Fault Refusal :=
  serve 0x40#8 t tag payload (reqFetchNotices payload) s

/-- SET_NOTICE_POLICY (R159). -/
def reqSetNoticePolicy (p : List Byte) (s : State) : Served :=
  whenReady s <| whenLength s p 20 <|
    match noticePoliciesOf p, indexOf (field p 18 1), flagOf (field p 19 1) with
    | some pol, some th, some high =>
      let q := { s.nq with policy := pol, threshold := th, activeHigh := high }.evaluate
      .reply (s.setNq q) .ok (noticePolicyBytes q)
    | _, _, _ => refuse s .badValue

def execSetNoticePolicy (t : Stamp) (tag : Byte) (payload : List Byte) (s : State) : Host.Outcome State Fault Refusal :=
  serve 0x41#8 t tag payload (reqSetNoticePolicy payload) s

/-- The 14 bytes of one camera in a frame summary (R180). -/
def camSummaryBytes (x : CamSummary) : List Byte :=
  let bits := (if x.counter.isSome then 1 else 0) + (if x.age.isSome then 2 else 0) + (if x.repeated then 4 else 0)
  leBytes 1 x.disposition.code ++ leBytes 1 bits ++ leBytes 2 ((x.counter.map BitVec.toNat).getD 0) ++
  leBytes 4 ((x.age.map BitVec.toNat).getD 0) ++ leBytes 4 x.coverage ++ leBytes 2 x.gain

/-- The 84 bytes of a frame summary (R180). -/
def Summary.bytes (x : Summary) : List Byte :=
  leBytes 4 x.frameNo.toNat ++ leBytes 4 x.start.toNat ++ leBytes 1 ((x.view.map Fin.val).getD 255) ++
  leBytes 1 x.body.toNat ++ x.seamCounts.toList.flatMap (leBytes 4) ++ leBytes 2 x.underruns ++
  x.cams.toList.flatMap camSummaryBytes

/-- GET_HISTORY (R165). -/
def reqGetHistory (p : List Byte) (s : State) : Served :=
  whenReady s <| whenLength s p 2 <|
    let first := field p 0 1
    let count := field p 1 1
    if first ≤ 7 ∧ 1 ≤ count ∧ count ≤ 4 then
      .reply s .ok (leBytes 1 s.nq.history.length ++ ((s.nq.history.drop first).take count).flatMap Summary.bytes)
    else refuse s .badValue

def execGetHistory (t : Stamp) (tag : Byte) (payload : List Byte) (s : State) : Host.Outcome State Fault Refusal :=
  serve 0x42#8 t tag payload (reqGetHistory payload) s

end Sys2Proof.Machine
end

