-- ==== Sys2Proof/Machine/Dispatch.lean ====
section
/-! DEFINITION. One arm per command, each one direct call of its meaning. -/
namespace Sys2Proof.Machine

def exec (i : Instr) (s : State) : Host.Outcome State Fault Refusal :=
  match i with
  | .powerOn rate1 rate0 => Sys2Proof.Machine.execPowerOn rate1 rate0 s
  | .trainingComplete t answers => Sys2Proof.Machine.execTrainingComplete t answers s
  | .fillComplete t => Sys2Proof.Machine.execFillComplete t s
  | .byteArrival t byte stopHigh => Sys2Proof.Machine.execByteArrival t byte stopHigh s
  | .gapExpiry t => Sys2Proof.Machine.execGapExpiry t s
  | .replySent t => Sys2Proof.Machine.execReplySent t s
  | .unknownKind t kind tag payload => Sys2Proof.Machine.execUnknownKind t kind tag payload s
  | .identify t tag payload => Sys2Proof.Machine.execIdentify t tag payload s
  | .getStatus t tag payload => Sys2Proof.Machine.execGetStatus t tag payload s
  | .start t tag payload => Sys2Proof.Machine.execStart t tag payload s
  | .stop t tag payload => Sys2Proof.Machine.execStop t tag payload s
  | .restart t tag payload => Sys2Proof.Machine.execRestart t tag payload s
  | .setTiming t tag payload => Sys2Proof.Machine.execSetTiming t tag payload s
  | .setCamera t tag payload => Sys2Proof.Machine.execSetCamera t tag payload s
  | .enableCamera t tag payload => Sys2Proof.Machine.execEnableCamera t tag payload s
  | .disableCamera t tag payload => Sys2Proof.Machine.execDisableCamera t tag payload s
  | .resetCamera t tag payload => Sys2Proof.Machine.execResetCamera t tag payload s
  | .getCamera t tag payload => Sys2Proof.Machine.execGetCamera t tag payload s
  | .clearView t tag payload => Sys2Proof.Machine.execClearView t tag payload s
  | .loadNodes t tag payload => Sys2Proof.Machine.execLoadNodes t tag payload s
  | .closeView t tag payload => Sys2Proof.Machine.execCloseView t tag payload s
  | .scanComplete t => Sys2Proof.Machine.execScanComplete t s
  | .selectView t tag payload => Sys2Proof.Machine.execSelectView t tag payload s
  | .selectViewNone t tag payload => Sys2Proof.Machine.execSelectViewNone t tag payload s
  | .readNodes t tag payload => Sys2Proof.Machine.execReadNodes t tag payload s
  | .setZone t tag payload => Sys2Proof.Machine.execSetZone t tag payload s
  | .setBody t tag payload => Sys2Proof.Machine.execSetBody t tag payload s
  | .setFill t tag payload => Sys2Proof.Machine.execSetFill t tag payload s
  | .setHarmonise t tag payload => Sys2Proof.Machine.execSetHarmonise t tag payload s
  | .setGain t tag payload => Sys2Proof.Machine.execSetGain t tag payload s
  | .getFaults t tag payload => Sys2Proof.Machine.execGetFaults t tag payload s
  | .clearFaults t tag payload => Sys2Proof.Machine.execClearFaults t tag payload s
  | .setFaultPolicy t tag payload => Sys2Proof.Machine.execSetFaultPolicy t tag payload s
  | .fetchNotices t tag payload => Sys2Proof.Machine.execFetchNotices t tag payload s
  | .setNoticePolicy t tag payload => Sys2Proof.Machine.execSetNoticePolicy t tag payload s
  | .getHistory t tag payload => Sys2Proof.Machine.execGetHistory t tag payload s
  | .frameOpen t cam payload => Sys2Proof.Machine.execFrameOpen t cam payload s
  | .info t cam payload => Sys2Proof.Machine.execInfo t cam payload s
  | .line t cam payload => Sys2Proof.Machine.execLine t cam payload s
  | .foreignPacket t cam type payload => Sys2Proof.Machine.execForeignPacket t cam type payload s
  | .frameClose t cam payload => Sys2Proof.Machine.execFrameClose t cam payload s
  | .silenceExpiry t cam => Sys2Proof.Machine.execSilenceExpiry t cam s
  | .openRequest t cam => Sys2Proof.Machine.execOpenRequest t cam s
  | .abandonRequest t cam => Sys2Proof.Machine.execAbandonRequest t cam s
  | .publishRequest t cam => Sys2Proof.Machine.execPublishRequest t cam s
  | .dropReadyRequest t cam => Sys2Proof.Machine.execDropReadyRequest t cam s
  | .arbiterGrant t ask => Sys2Proof.Machine.execArbiterGrant t ask s
  | .writerTransferComplete t => Sys2Proof.Machine.execWriterTransferComplete t s
  | .compositionTransferComplete t upsets => Sys2Proof.Machine.execCompositionTransferComplete t upsets s
  | .lineComplete t => Sys2Proof.Machine.execLineComplete t s
  | .outputFrameStart t => Sys2Proof.Machine.execOutputFrameStart t s
  | .linePeriodStart t => Sys2Proof.Machine.execLinePeriodStart t s
  | .frameEnd t => Sys2Proof.Machine.execFrameEnd t s

end Sys2Proof.Machine
end

