-- ==== Sys2Proof/Machine/Step.lean ====
section
/-! DEFINITION. One step: the command at the front of the queue, or, on an empty queue, one microsecond. -/
namespace Sys2Proof.Machine

/-- One microsecond passes with no event: the timebase counts (R111; log entry 1). -/
def State.tick (s : State) : State := s.setTimebase (s.timebase + 1)

/-- Take the command at the front of the queue and run it on the state with the queue's rest; with no command waiting a
microsecond passes (log entry 1). -/
def step (s : State) : Host.Outcome State Fault Refusal :=
  match s.pending with
  | [] => .next s.tick
  | c :: rest => exec c (s.setPending rest)

/-- The state with the command that a word spells put at the front of its queue; unchanged where it spells none. -/
def State.withFetchWord (s : State) (nbits w : Nat) : State :=
  match decodeTableWord nbits w with
  | some c => s.setPending (c :: s.pending)
  | none => s

/-- What has come from outside joins the queue behind the commands that wait, if it is a command. -/
def State.enqueue (s : State) (c : Option Instr) : State := s.setPending (s.pending ++ c.toList)

/-- A packet arrives at a camera port (R51). -/
def State.packetArrives (s : State) (t : Stamp) (cam : Camera) (bytes : List Byte) : State :=
  s.enqueue (packetCommand t cam bytes)

/-- A character arrives on RXD, with these levels in its ten bit times (R167). -/
def State.characterArrives (s : State) (t : Stamp) (levels : List Bool) : State := s.enqueue (characterCommand t levels)

end Sys2Proof.Machine
end

