-- ==== Sys2Proof/WellFormed.lean ====
section
/-! DEFINITION. Which commands are well formed: the operands that the manual lets occur. -/
namespace Sys2Proof

/-- The KINDs of the request catalogue (R174), as the check of UNKNOWN_KIND needs them. -/
def catalogueKinds : List Nat :=
  [0x01, 0x02, 0x03, 0x04, 0x05, 0x06, 0x10, 0x11, 0x12, 0x13, 0x14, 0x20, 0x21, 0x22, 0x23, 0x24, 0x28, 0x29, 0x2A, 0x30,
    0x31, 0x38, 0x39, 0x3A, 0x40, 0x41, 0x42]

/-- A request frame's payload has at most 512 bytes (R168). -/
def payloadOk (p : List Byte) : Bool := p.length ≤ Config.payloadMax

/-- A command whose operands can occur. -/
def Instr.wf : Instr → Bool
  | .powerOn _ _ => true
  | .trainingComplete _ _ => true
  | .fillComplete _ => true
  | .byteArrival _ _ _ => true
  | .gapExpiry _ => true
  | .replySent _ => true
  | .unknownKind _ kind _ p => payloadOk p && !catalogueKinds.contains kind.toNat
  | .identify _ _ p => payloadOk p
  | .getStatus _ _ p => payloadOk p
  | .start _ _ p => payloadOk p
  | .stop _ _ p => payloadOk p
  | .restart _ _ p => payloadOk p
  | .setTiming _ _ p => payloadOk p
  | .setCamera _ _ p => payloadOk p
  | .enableCamera _ _ p => payloadOk p
  | .disableCamera _ _ p => payloadOk p
  | .resetCamera _ _ p => payloadOk p
  | .getCamera _ _ p => payloadOk p
  | .clearView _ _ p => payloadOk p
  | .loadNodes _ _ p => payloadOk p
  | .closeView _ _ p => payloadOk p
  | .scanComplete _ => true
  | .selectView _ _ p => payloadOk p && p != [0xFF#8]
  | .selectViewNone _ _ p => p == [0xFF#8]
  | .readNodes _ _ p => payloadOk p
  | .setZone _ _ p => payloadOk p
  | .setBody _ _ p => payloadOk p
  | .setFill _ _ p => payloadOk p
  | .setHarmonise _ _ p => payloadOk p
  | .setGain _ _ p => payloadOk p
  | .getFaults _ _ p => payloadOk p
  | .clearFaults _ _ p => payloadOk p
  | .setFaultPolicy _ _ p => payloadOk p
  | .fetchNotices _ _ p => payloadOk p
  | .setNoticePolicy _ _ p => payloadOk p
  | .getHistory _ _ p => payloadOk p
  | .frameOpen _ _ _ => true
  | .info _ _ _ => true
  | .line _ _ _ => true
  | .foreignPacket _ _ type _ => !([0x01#8, 0x02#8, 0x04#8, 0x08#8].contains type)
  | .frameClose _ _ _ => true
  | .silenceExpiry _ _ => true
  | .openRequest _ _ => true
  | .abandonRequest _ _ => true
  | .publishRequest _ _ => true
  | .dropReadyRequest _ _ => true
  | .arbiterGrant _ _ => true
  | .writerTransferComplete _ => true
  | .compositionTransferComplete _ upsets => upsets.all fun u => u.1 < Config.memoryWords
  | .lineComplete _ => true
  | .outputFrameStart _ => true
  | .linePeriodStart _ => true
  | .frameEnd _ => true

end Sys2Proof
end

