-- ==== Sys2Proof/Safety.lean ====
section
/-! DEFINITION. What counts as a safe state and a safe step, in the terms that the claims use: the commands by their
stamps and request frames, what an answered request leaves, and the laws that the manual states of the whole part. -/
namespace Sys2Proof

/-! ### Commands -/

/-- The stamp that a command carries; POWER_ON restarts the timebase and carries none (R111). -/
def Instr.stamp : Instr → Option Stamp
  | .powerOn _ _ => none
  | .trainingComplete t _ => some t
  | .fillComplete t => some t
  | .byteArrival t _ _ => some t
  | .gapExpiry t => some t
  | .replySent t => some t
  | .unknownKind t _ _ _ => some t
  | .identify t _ _ => some t
  | .getStatus t _ _ => some t
  | .start t _ _ => some t
  | .stop t _ _ => some t
  | .restart t _ _ => some t
  | .setTiming t _ _ => some t
  | .setCamera t _ _ => some t
  | .enableCamera t _ _ => some t
  | .disableCamera t _ _ => some t
  | .resetCamera t _ _ => some t
  | .getCamera t _ _ => some t
  | .clearView t _ _ => some t
  | .loadNodes t _ _ => some t
  | .closeView t _ _ => some t
  | .scanComplete t => some t
  | .selectView t _ _ => some t
  | .selectViewNone t _ _ => some t
  | .readNodes t _ _ => some t
  | .setZone t _ _ => some t
  | .setBody t _ _ => some t
  | .setFill t _ _ => some t
  | .setHarmonise t _ _ => some t
  | .setGain t _ _ => some t
  | .getFaults t _ _ => some t
  | .clearFaults t _ _ => some t
  | .setFaultPolicy t _ _ => some t
  | .fetchNotices t _ _ => some t
  | .setNoticePolicy t _ _ => some t
  | .getHistory t _ _ => some t
  | .frameOpen t _ _ => some t
  | .info t _ _ => some t
  | .line t _ _ => some t
  | .foreignPacket t _ _ _ => some t
  | .frameClose t _ _ => some t
  | .silenceExpiry t _ => some t
  | .openRequest t _ => some t
  | .abandonRequest t _ => some t
  | .publishRequest t _ => some t
  | .dropReadyRequest t _ => some t
  | .arbiterGrant t _ => some t
  | .writerTransferComplete t => some t
  | .compositionTransferComplete t _ => some t
  | .lineComplete t => some t
  | .outputFrameStart t => some t
  | .linePeriodStart t => some t
  | .frameEnd t => some t

/-- A row of the request catalogue as it is executed (R174): its stamp, KIND, TAG and payload, the payload length that
the catalogue gives (none for LOAD_NODES, whose count fixes it), and whether it is refused in STARTUP and in
MEMORY_FAULT. -/
structure Request where
  stamp : Stamp
  kind : Byte
  tag : Byte
  payload : List Byte
  length : Option Nat
  refusedInStartup : Bool
  refusedInMemoryFault : Bool
  deriving DecidableEq, Repr

/-- The catalogue (R174). -/
def Instr.request : Instr → Option Request
  | .identify t g p => some ⟨t, 0x01#8, g, p, some 0, false, false⟩
  | .getStatus t g p => some ⟨t, 0x02#8, g, p, some 0, false, false⟩
  | .start t g p => some ⟨t, 0x03#8, g, p, some 0, true, true⟩
  | .stop t g p => some ⟨t, 0x04#8, g, p, some 0, true, true⟩
  | .restart t g p => some ⟨t, 0x05#8, g, p, some 0, true, false⟩
  | .setTiming t g p => some ⟨t, 0x06#8, g, p, some 8, true, true⟩
  | .setCamera t g p => some ⟨t, 0x10#8, g, p, some 20, true, true⟩
  | .enableCamera t g p => some ⟨t, 0x11#8, g, p, some 1, true, true⟩
  | .disableCamera t g p => some ⟨t, 0x12#8, g, p, some 1, true, true⟩
  | .resetCamera t g p => some ⟨t, 0x13#8, g, p, some 1, true, true⟩
  | .getCamera t g p => some ⟨t, 0x14#8, g, p, some 1, true, true⟩
  | .clearView t g p => some ⟨t, 0x20#8, g, p, some 1, true, true⟩
  | .loadNodes t g p => some ⟨t, 0x21#8, g, p, none, true, true⟩
  | .closeView t g p => some ⟨t, 0x22#8, g, p, some 1, true, true⟩
  | .selectView t g p => some ⟨t, 0x23#8, g, p, some 1, true, true⟩
  | .selectViewNone t g p => some ⟨t, 0x23#8, g, p, some 1, true, true⟩
  | .readNodes t g p => some ⟨t, 0x24#8, g, p, some 4, true, true⟩
  | .setZone t g p => some ⟨t, 0x28#8, g, p, some 9, true, true⟩
  | .setBody t g p => some ⟨t, 0x29#8, g, p, some 1, true, true⟩
  | .setFill t g p => some ⟨t, 0x2A#8, g, p, some 3, true, true⟩
  | .setHarmonise t g p => some ⟨t, 0x30#8, g, p, some 9, true, true⟩
  | .setGain t g p => some ⟨t, 0x31#8, g, p, some 3, true, true⟩
  | .getFaults t g p => some ⟨t, 0x38#8, g, p, some 0, true, true⟩
  | .clearFaults t g p => some ⟨t, 0x39#8, g, p, some 4, true, true⟩
  | .setFaultPolicy t g p => some ⟨t, 0x3A#8, g, p, some 3, true, true⟩
  | .fetchNotices t g p => some ⟨t, 0x40#8, g, p, some 1, true, true⟩
  | .setNoticePolicy t g p => some ⟨t, 0x41#8, g, p, some 20, true, true⟩
  | .getHistory t g p => some ⟨t, 0x42#8, g, p, some 2, true, true⟩
  | .powerOn _ _ | .trainingComplete _ _ | .fillComplete _ | .byteArrival _ _ _ | .gapExpiry _ | .replySent _
  | .unknownKind _ _ _ _ | .scanComplete _ | .frameOpen _ _ _ | .info _ _ _ | .line _ _ _ | .foreignPacket _ _ _ _
  | .frameClose _ _ _ | .silenceExpiry _ _ | .openRequest _ _ | .abandonRequest _ _ | .publishRequest _ _
  | .dropReadyRequest _ _ | .arbiterGrant _ _ | .writerTransferComplete _ | .compositionTransferComplete _ _
  | .lineComplete _ | .outputFrameStart _ | .linePeriodStart _ | .frameEnd _ => none

/-- The camera whose port, ring or stream a command names, if it names one: packets, silence, ring requests (their
operand) and the three port requests (the byte at offset 0 of their payload). -/
def Instr.port : Instr → Option Nat
  | .frameOpen _ c _ | .info _ c _ | .line _ c _ | .foreignPacket _ c _ _ | .frameClose _ c _ | .silenceExpiry _ c
  | .openRequest _ c | .abandonRequest _ c | .publishRequest _ c | .dropReadyRequest _ c => some c.val
  | .setCamera _ _ p | .enableCamera _ _ p | .disableCamera _ _ p | .resetCamera _ _ p =>
    some (match p with
      | b :: _ => b.toNat
      | [] => 0)
  | _ => none

/-- The statuses with which the executor refuses a request (R172). -/
def Machine.Status.refusal : Machine.Status → Bool
  | .unknownKind | .badValue | .wrongState | .notReady => true
  | .ok | .adjusted | .badFrame | .badLength | .busy => false

end Sys2Proof

namespace Sys2Proof.Machine

/-! ### Runs of commands, and what a request leaves -/

/-- Commands one after another. -/
def execAll : List Instr → State → Host.Outcome State Fault Refusal
  | [], s => .next s
  | c :: rest, s =>
    match exec c s with
    | .next s' => execAll rest s'
    | .fault r => .fault r
    | .refused r => .refused r

/-- The executor can take this request: the frame stands at the head of the inbox, the executor is idle, and fewer than
two of its replies wait in the outbox (R172, R173). -/
structure State.asks (s : State) (kind tag : Byte) (payload : List Byte) (rest : List Frame) : Prop where
  head : s.lc.inbox = ⟨kind, tag, payload⟩ :: rest
  idle : s.lc.closing = none
  room : (s.lc.outbox.filter Reply.executor).length < 2

/-- The executor can take this request, and the part is neither in STARTUP nor in MEMORY_FAULT, so that step 2 of R172
passes every request. -/
structure State.asksReady (s : State) (kind tag : Byte) (payload : List Byte) (rest : List Frame) : Prop where
  asks : s.asks kind tag payload rest
  ready : s.pu.run ≠ .startup ∧ s.pu.run ≠ .memoryFault

/-- The link controller once the executor has taken the head of the inbox, leaving `rest`, and answered it. -/
def LC.answered (lc : LC) (rest : List Frame) (kind tag : Byte) (st : Status) (data : List Byte) : LC :=
  { lc with inbox := rest, outbox := lc.outbox ++ [⟨kind, tag, st, data, true⟩] }

/-- The state in which a request was answered at `t` and nothing else has changed. -/
def State.answered (s : State) (t : Stamp) (rest : List Frame) (kind tag : Byte) (st : Status) (data : List Byte) :
    State :=
  { s with timebase := t, lc := s.lc.answered rest kind tag st data }

/-- The outbox once the framer has placed a reply, which is not sent where eight framer replies wait (R173). -/
def LC.framerOutbox (lc : LC) (kind tag : Byte) (st : Status) : List Reply :=
  if (lc.outbox.filter fun r => !r.executor).length < 8 then lc.outbox ++ [⟨kind, tag, st, [], false⟩] else lc.outbox

/-- What the output stop leaves at `t`: STOPPED, no slot HELD, the port idle and its FIFO empty, OUTPUT_STOPPED raised
(R104, R117, R123, R128). -/
def State.halted (s : State) (t : Stamp) : State :=
  { s with
    pu := { s.pu with run := .stopped }
    fmc := { s.fmc with rings := s.fmc.rings.map fun r => r.map fun x => if x.isHeld then .free else x }
    op := { s.op with idle := true, counter := 0, inFrame := false, fifo := [], emitting := none }
    nq := s.nq.raise .outputStopped .output 0 t }

/-- Where the writer transfer in progress writes, and the bytes it is to write: the chunk at the head of its camera's
write FIFO, into the row of the FILLING slot (R93). -/
def State.inTransfer (s : State) : Option (Nat × List Byte) :=
  match s.fmc.transfer with
  | some (.writer c) =>
    match chunkOf (s.cr.get c), Trio.find (s.fmc.rings.get c) SlotRecord.isFilling with
    | some (row, offset, bytes), some i => some (rowBase c i row + offset, bytes)
    | _, _ => none
  | _ => none

/-- Address `a` is among the first `n` bytes of the writer transfer in progress. -/
def State.writes (s : State) (n a : Nat) : Bool :=
  match s.inTransfer with
  | some (base, bytes) => base ≤ a && a < base + min n bytes.length
  | none => false

/-- The frame memory `m` differs from that of `s` by the first `n` bytes of the writer transfer in progress and by nothing
else: those bytes read as the transfer's, every other byte reads as before; the words written are in error no longer, and
every other word is as it was (R93, R101, R105). -/
structure State.wroteFirst (s : State) (n : Nat) (m : FMC) : Prop where
  written : ∀ base bytes i, s.inTransfer = some (base, bytes) → i < min n bytes.length →
    memRead m.mem (base + i) = bytes.getD i 0#8
  kept : ∀ a, s.writes n a = false → memRead m.mem a = memRead s.fmc.mem a
  fresh : ∀ a, s.writes n a = true → keyGet m.wordErrors (a / 8) = none
  errors : ∀ w, (∀ a, s.writes n a = true → a / 8 ≠ w) → keyGet m.wordErrors w = keyGet s.fmc.wordErrors w

/-- A property of states that every step keeps. -/
def Keeps (p : State → Prop) : Prop := ∀ s s' : State, p s → step s = .next s' → p s'

/-! ### Frame rings and write FIFOs -/

/-- The law of R95: at most one slot FILLING, one READY and one HELD. -/
structure Ring.lawful (r : Ring) : Prop where
  filling : r.toList.countP SlotRecord.isFilling ≤ 1
  ready : r.toList.countP SlotRecord.isReady ≤ 1
  held : r.toList.countP SlotRecord.isHeld ≤ 1

/-- The law of R95 on all four rings. -/
def State.ringsLawful (s : State) : Prop := ∀ c : Camera, Ring.lawful (s.fmc.rings.get c)

/-- What R96 says of a write FIFO, read from its head: `filling` is whether the ring holds a FILLING slot when the head
is worked, and `opened` whether a camera frame is open at the receiver. Every line, publish and abandon finds the
FILLING slot that its own frame's open claimed, and every open finds none. -/
def fifoAgrees (filling opened : Bool) : List FifoEntry → Prop
  | [] => filling = opened
  | .openReq :: rest => filling = false ∧ fifoAgrees true opened rest
  | .line _ _ _ :: rest => filling = true ∧ fifoAgrees true opened rest
  | .abandonReq :: rest => filling = true ∧ fifoAgrees false opened rest
  | .publishReq _ _ :: rest => filling = true ∧ fifoAgrees false opened rest
  | .dropReadyReq :: rest => filling = false ∧ fifoAgrees false opened rest

/-- On every port the write FIFO agrees with the ring and with the open-frame record (R96). -/
def State.fifosAgree (s : State) : Prop :=
  ∀ c : Camera,
    fifoAgrees ((s.fmc.rings.get c).toList.any SlotRecord.isFilling) (s.cr.get c).openFrame.isSome (s.cr.get c).fifo

/-! ### View slots -/

/-- What R28 says of a view slot's table in its state. -/
def ViewSlot.lawful (x : ViewSlot) : Prop :=
  keysRising x.nodes = true ∧
  match x.state with
  | .empty => x.nodes = []
  | .loading | .closing => x.nodes ≠ []
  | .ready | .pending | .active => unwritten x.nodes = []

/-- The laws of R28, R29 and R35: the tables fit the states, at most one slot is ACTIVE, the pending selection is SLOT s
exactly when slot s is PENDING, and a slot is CLOSING exactly when a CLOSE_VIEW of it occupies the executor. -/
structure State.viewsLawful (s : State) : Prop where
  tables : ∀ v : Fin 4, (s.vs.slots.get v).lawful
  active : ∀ v w : Fin 4, (s.vs.slots.get v).state = .active → (s.vs.slots.get w).state = .active → v = w
  pending : ∀ v : Fin 4, (s.vs.slots.get v).state = .pending ↔ s.vs.selection = .slot v
  closing : ∀ v : Fin 4, (s.vs.slots.get v).state = .closing ↔ s.lc.closing.map Closing.slot = some v

/-! ### Notices -/

/-- The laws of R158, R161, R163 and R165: at most 32 records, no two with one key, each counting 1 to 255 notices, the
attention line as the queue and the threshold give it, and at most 8 summaries. -/
structure NQ.lawful (q : NQ) : Prop where
  depth : q.queue.length ≤ 32
  keys : q.queue.Pairwise fun a b => ¬(a.kind = b.kind ∧ a.source = b.source ∧ a.detail = b.detail)
  counts : ∀ r ∈ q.queue, 1 ≤ r.count ∧ r.count ≤ 255
  attention : q.attention = q.queue.any fun r => decide (q.threshold ≤ r.priority)
  history : q.history.length ≤ 8

/-! ### Settings -/

/-- The ranges of the settings record, and every gain in the range in force (R131, R132). -/
structure HU.lawful (h : HU) : Prop where
  step : 1 ≤ h.settings.stepLimit ∧ h.settings.stepLimit ≤ 32
  low : 64 ≤ h.settings.gmin
  order : h.settings.gmin ≤ h.settings.gmax
  high : h.settings.gmax ≤ 1023
  pixels : 64 ≤ h.settings.nmin ∧ h.settings.nmin ≤ 65535
  gains : ∀ c : Camera, h.settings.gmin ≤ h.gains.get c ∧ h.gains.get c ≤ h.settings.gmax

/-- The ranges of the pacing record (R113), of the exclusion zones (R44), and the fixed severities (R149). -/
structure State.settingsLawful (s : State) : Prop where
  period : 31488 ≤ s.pu.periodInForce ∧ s.pu.periodInForce ≤ 100000
  next : 31488 ≤ s.pu.pendingPeriod ∧ s.pu.pendingPeriod ≤ 100000
  age : 10000 ≤ s.pu.maxAge ∧ s.pu.maxAge ≤ 200000
  zones : ∀ c z : Fin 4,
    ((s.vs.zones.get c).get z).i0 ≤ ((s.vs.zones.get c).get z).i1 ∧ ((s.vs.zones.get c).get z).i1 ≤ 44 ∧
    ((s.vs.zones.get c).get z).j0 ≤ ((s.vs.zones.get c).get z).j1 ∧ ((s.vs.zones.get c).get z).j1 ≤ 59
  severities : s.fu.policy.silence.containing = false ∧ s.fu.policy.eccFixed.containing = false ∧
    s.fu.policy.underrun.containing = false

/-! ### Receivers -/

/-- A port's qualification record is as R76 says, with the open-frame data that R57, R66 and R70 tie to it. -/
def Receiver.lawful (r : Receiver) : Prop :=
  (∀ d, r.descriptor = some d → d.inRange = true) ∧
  match r.qual, r.descriptor with
  | .disabled, _ =>
    r.goodRun = 0 ∧ r.badRun = 0 ∧ r.openFrame = none ∧ r.prevOpen = none ∧ r.bprev = none ∧ r.lastPublished = none ∧
    r.fifo = []
  | .noSignal, some _ =>
    r.goodRun = 0 ∧ r.badRun = 0 ∧ r.openFrame = none ∧ r.prevOpen = none ∧ r.bprev = none ∧ r.lastPublished = none
  | .acquiring, some d => r.goodRun < d.acquire ∧ r.badRun = 0 ∧ r.bprev = none ∧ r.lastPublished = none
  | .locked, some _ => r.goodRun = 0 ∧ r.badRun = 0
  | .holdover, some d => r.goodRun < d.acquire ∧ r.badRun < d.lose
  | .noSignal, none | .acquiring, none | .locked, none | .holdover, none => False

/-- Every port's record is lawful. -/
def State.portsLawful (s : State) : Prop := ∀ c : Camera, (s.cr.get c).lawful

/-! ### Run state and output -/

/-- What R22, R108, R109, R112 and R128 say of the blocks in each run state. -/
structure State.runLawful (s : State) : Prop where
  startup : s.pu.run = .startup ↔ s.fmc.init ≠ .idle
  ports : s.pu.run.operational = false → ∀ c : Camera, (s.cr.get c).qual = .disabled ∧ (s.cr.get c).fifo = []
  rings : s.pu.run.operational = false → s.fmc.rings = .all (.all .free) ∧ s.fmc.transfer = none
  idle : s.ce.state = .idle ↔ s.ce.set = none
  quiet : s.pu.run ≠ .running → s.pu.run ≠ .stopping → s.ce.state = .idle
  frame : s.pu.run = .stopping → s.ce.state ≠ .idle
  port : s.op.idle = true ↔ s.pu.run ≠ .running ∧ s.pu.run ≠ .stopping
  blank : s.op.idle = true → s.op.fifo = [] ∧ s.op.emitting = none ∧ s.op.counter = 0

/-- Every slot that the composition set names is HELD (R22, R101, R102). -/
def State.slotsHeld (s : State) : Prop :=
  ∀ set, s.ce.set = some set → ∀ c k, set.cams.get c = .taken k → ((s.fmc.rings.get c).get k.slot).isHeld = true

/-! ### Capacities and the frame memory -/

/-- What the buffers hold at most: lines of a write FIFO (R67), lines of the line FIFO (R24), pixels of a line (R1),
frames of the inbox (R171), replies of the outbox (R173). -/
structure State.withinCapacity (s : State) : Prop where
  writeFifos : ∀ c : Camera, lineEntries (s.cr.get c).fifo ≤ 2
  lineFifo : s.op.fifo.length ≤ 4
  pixels : s.ce.pixels.length ≤ 720
  inbox : s.lc.inbox.length ≤ 4
  executor : (s.lc.outbox.filter Reply.executor).length ≤ 2
  closing : s.lc.closing.isSome = true → (s.lc.outbox.filter Reply.executor).length < 2
  framer : (s.lc.outbox.filter fun r => !r.executor).length ≤ 8

/-- The frame memory is in its canonical form, and so is the list of words in error. -/
def State.memoryCanonical (s : State) : Prop := memWf s.fmc.mem = true ∧ keysRising s.fmc.wordErrors = true

end Sys2Proof.Machine
end

