-- ==== Sys2Proof/Certificates/Slice0/Obligations.lean ====
section
/-! DEFINITION. The statements for the provers. -/
open Sys2Proof Sys2Proof.Machine

/-! ### The step -/

/-- A step runs the command at the front of the queue on the state with the queue's rest; on an empty queue one
microsecond passes and nothing else happens (the model's choice, log entry 1). -/
def Obligations.StepRunsFront : Prop :=
  (∀ (s : State) (c : Instr) (rest : List Instr), s.pending = c :: rest → step s = exec c { s with pending := rest }) ∧
  ∀ s : State, s.pending = [] → step s = .next { s with timebase := s.timebase + 1 }

/-- Every command but POWER_ON leaves the timebase at its own stamp and the sampled rate straps as they are (R111, R167);
no command touches the queue of the commands that wait; and every command in every state answers a next state, since the
manual gives an outcome for each (the model's reading, log entry 2). -/
def Obligations.EveryCommandAnswers : Prop :=
  ∀ (c : Instr) (s : State), ∃ s', exec c s = .next s' ∧ s'.pending = s.pending ∧
    ∀ t, c.stamp = some t → s'.timebase = t ∧ s'.lc.rate1 = s.lc.rate1 ∧ s'.lc.rate0 = s.lc.rate0

/-! ### Laws that every step keeps -/

/-- R95: each ring holds at most one FILLING, one READY and one HELD slot, and every step keeps it so. -/
def Obligations.RingLawKept : Prop := Keeps State.ringsLawful

/-- R76, R55, R57, R66 and R70: each port's qualification record stays as the manual says, with a set descriptor in range
on every enabled port. -/
def Obligations.PortLawKept : Prop := Keeps State.portsLawful

/-- R96: whatever a write FIFO brings to its head, a line, a publish or an abandon finds the FILLING slot of its own frame,
and an open finds none. -/
def Obligations.FifoLawKept : Prop := Keeps fun s => s.ringsLawful ∧ s.portsLawful ∧ s.fifosAgree

/-- R28, R29, R35: the view slots' tables fit their states, at most one slot is ACTIVE, the pending selection names
exactly the PENDING slot, and a slot is CLOSING exactly while its CLOSE_VIEW occupies the executor. -/
def Obligations.ViewLawKept : Prop := Keeps State.viewsLawful

/-- R158, R161, R163, R165: the notice queue holds at most 32 records with different keys, each with a count in 1..255,
the attention line is as queue and threshold give it, and the history holds at most 8 summaries. -/
def Obligations.NoticeLawKept : Prop := Keeps fun s => s.nq.lawful

/-- R44, R113, R131, R132, R149: the harmonisation settings stay in their ranges and every gain in the range in force;
period, pending period and maximum age, the rectangles of the exclusion zones, and the three fixed severities stay in
theirs. -/
def Obligations.SettingsLawKept : Prop := Keeps fun s => s.hu.lawful ∧ s.settingsLawful

/-- R22, R101, R108, R112, R128: the blocks are in the states that the run state allows, and every slot of the
composition set stays HELD for the whole frame. -/
def Obligations.RunLawKept : Prop := Keeps fun s => s.runLawful ∧ s.slotsHeld

/-- R1, R24, R67, R171, R173: no FIFO, inbox or outbox ever holds more than the manual gives it; and the frame memory stays
in its canonical form, so that equal memories are equal data (the model's own form). -/
def Obligations.CapacityKept : Prop := Keeps State.withinCapacity ∧ Keeps State.memoryCanonical

/-- The state after power-on obeys every law that the steps keep. -/
def Obligations.ResetIsLawful : Prop :=
  State.reset.ringsLawful ∧ State.reset.portsLawful ∧ State.reset.fifosAgree ∧ State.reset.viewsLawful ∧
  State.reset.nq.lawful ∧ State.reset.hu.lawful ∧ State.reset.settingsLawful ∧ State.reset.runLawful ∧
  State.reset.slotsHeld ∧ State.reset.withinCapacity ∧ State.reset.memoryCanonical

/-! ### What only some commands change -/

/-- The law of R118: what a frame uses (view, body, zones, fill, gains, withheld set, cameras with their slots and sizes)
is fixed by its frame start, and no command but a frame start, a frame end, RESTART and POWER_ON changes it. -/
def Obligations.CompositionSetFixed : Prop :=
  ∀ (c : Instr) (s s' : State), exec c s = .next s' →
    (∀ t, c ≠ .outputFrameStart t) → (∀ t, c ≠ .frameEnd t) → (∀ t g p, c ≠ .restart t g p) → (∀ a b, c ≠ .powerOn a b) →
    s'.ce.set = s.ce.set

/-- The law of R37: the node records of a slot in READY, PENDING or ACTIVE stay as they are; only a CLEAR_VIEW of a READY
slot, which empties it, and POWER_ON change them. And R43: between a frame start and the next, the ACTIVE slot stays
ACTIVE and no other becomes so: only a frame start, RESTART and POWER_ON move a slot into or out of ACTIVE (the premise
is the law of the view slots). -/
def Obligations.ViewsStay : Prop :=
  (∀ (c : Instr) (s s' : State) (v : Fin 4), exec c s = .next s' →
    ((s.vs.slots.get v).state = .ready ∨ (s.vs.slots.get v).state = .pending ∨ (s.vs.slots.get v).state = .active) →
    (∀ a b, c ≠ .powerOn a b) →
    (s'.vs.slots.get v).nodes = (s.vs.slots.get v).nodes ∨
      (∃ t g p, c = .clearView t g p) ∧ (s.vs.slots.get v).state = .ready ∧ s'.vs.slots.get v = ⟨.empty, []⟩) ∧
  ∀ (c : Instr) (s s' : State) (v : Fin 4), s.viewsLawful → exec c s = .next s' →
    (∀ t, c ≠ .outputFrameStart t) → (∀ t g p, c ≠ .restart t g p) → (∀ a b, c ≠ .powerOn a b) →
    ((s'.vs.slots.get v).state = .active ↔ (s.vs.slots.get v).state = .active)

/-- What the fault unit keeps. R152: while the first-fault record is occupied it keeps describing the same fault; only
CLEAR_FAULTS, RESTART and POWER_ON empty it, and every other command leaves all but its more-faults flag, which is never
cleared. R148: a set mark stays set through every command but CLEAR_FAULTS, RESET_CAMERA, RESTART and POWER_ON. R153: the
withheld set as last evaluated, and the frame that evaluated it, change at a frame start, at RESTART and at POWER_ON
only. -/
def Obligations.FaultStateStays : Prop :=
  ∀ (c : Instr) (s s' : State), exec c s = .next s' → (∀ t g p, c ≠ .restart t g p) → (∀ a b, c ≠ .powerOn a b) →
    (∀ x, s.fu.first = some x → (∀ t g p, c ≠ .clearFaults t g p) →
      ∃ more, s'.fu.first = some ⟨x.fault, more⟩ ∧ (x.more = true → more = true)) ∧
    (∀ src k, (s.fu.marks src).get k = true → (∀ t g p, c ≠ .clearFaults t g p) → (∀ t g p, c ≠ .resetCamera t g p) →
      (s'.fu.marks src).get k = true) ∧
    ((∀ t, c ≠ .outputFrameStart t) → s'.fu.withheld = s.fu.withheld ∧ s'.fu.withheldFrame = s.fu.withheldFrame)

/-- Chapter 3, introduction, and R55: a command that names one port changes no other receiver; and no command but
POWER_ON changes the descriptor of a port that is enabled. -/
def Obligations.ReceiversIndependent : Prop :=
  (∀ (c : Instr) (s s' : State) (n : Nat) (d : Camera), exec c s = .next s' → c.port = some n → d.val ≠ n →
    s'.cr.get d = s.cr.get d) ∧
  ∀ (c : Instr) (s s' : State) (d : Camera), exec c s = .next s' → (∀ a b, c ≠ .powerOn a b) →
    (s.cr.get d).qual ≠ .disabled → (s'.cr.get d).descriptor = (s.cr.get d).descriptor

/-! ### The executor -/

/-- R172, steps 1 to 3, and R174: a request of a KIND that the catalogue does not hold is answered UNKNOWN_KIND in every
run state; a request that the catalogue refuses in the present run state is answered NOT_READY; and one that passes that
step with a payload of another length than the catalogue gives is answered BAD_VALUE; none changes anything else. -/
def Obligations.RequestChecks : Prop :=
  (∀ (s : State) (t : Stamp) (kind tag : Byte) (p : List Byte) (rest : List Frame), kind.toNat ∉ catalogueKinds →
    s.asks kind tag p rest →
    exec (.unknownKind t kind tag p) s = .next (s.answered t rest kind tag .unknownKind [])) ∧
  ∀ (c : Instr) (q : Request) (s : State) (rest : List Frame), c.wf = true → c.request = some q →
    s.asks q.kind q.tag q.payload rest →
    let notReady :=
      (s.pu.run = .startup ∧ q.refusedInStartup = true) ∨ (s.pu.run = .memoryFault ∧ q.refusedInMemoryFault = true)
    (notReady → exec c s = .next (s.answered q.stamp rest q.kind q.tag .notReady [])) ∧
    ∀ n, ¬ notReady → q.length = some n → q.payload.length ≠ n →
      exec c s = .next (s.answered q.stamp rest q.kind q.tag .badValue [])

/-- R172: a request that is refused, at whatever step, changes no state but the timebase, the inbox that it leaves and the
outbox that its reply enters. -/
def Obligations.RefusalChangesNothing : Prop :=
  ∀ (c : Instr) (q : Request) (s s' : State) (rest : List Frame) (st : Status) (data : List Byte),
    c.request = some q → s.asks q.kind q.tag q.payload rest → exec c s = .next s' →
    s'.lc.outbox = s.lc.outbox ++ [⟨q.kind, q.tag, st, data, true⟩] → st.refusal = true →
    s' = s.answered q.stamp rest q.kind q.tag st []

/-! ### The link -/

/-- R167, R169, R170: what one byte does in each state of the framer before the last CRC byte. A character on RXD is a start
bit, eight data bits with the least significant first, no parity and one stop bit; that the start bit is low and a
data bit high for 1 is presumed (log entry 20). A character whose stop bit is low does nothing. Everything but the framer
and its gap timer stays as it is. -/
def Obligations.FramerStoresBytes : Prop :=
  ∀ (s : State) (t : Stamp) (b : Byte),
    let after := fun (f : Framer) => { s with timebase := t, lc := { s.lc with framer := f, lastByte := t } }
    (∀ (bits : List Bool) (stop : Bool), (∀ i < 8, bits[i]? = some (b.getLsbD i)) → bits.length = 8 →
      characterCommand t (false :: bits ++ [stop]) = some (.byteArrival t b stop)) ∧
    (∀ levels, levels.length ≠ 10 ∨ levels.head? ≠ some false → characterCommand t levels = none) ∧
    exec (.byteArrival t b false) s = .next { s with timebase := t } ∧
    (s.lc.framer = .hunt → b = 0xC3#8 → exec (.byteArrival t b true) s = .next (after (.header []))) ∧
    (s.lc.framer = .hunt → b ≠ 0xC3#8 → exec (.byteArrival t b true) s = .next { s with timebase := t }) ∧
    (s.lc.framer = .header [] → exec (.byteArrival t b true) s = .next (after (.header [b]))) ∧
    (∀ l0, s.lc.framer = .header [l0] → 512 < l0.toNat + 256 * b.toNat →
      exec (.byteArrival t b true) s = .next (after (.drain []))) ∧
    (∀ l0, s.lc.framer = .header [l0] → l0.toNat + 256 * b.toNat ≤ 512 →
      exec (.byteArrival t b true) s = .next (after (.header [l0, b]))) ∧
    (∀ l0 l1, s.lc.framer = .header [l0, l1] → exec (.byteArrival t b true) s = .next (after (.header [l0, l1, b]))) ∧
    (∀ l0 l1 kind, s.lc.framer = .header [l0, l1, kind] → l0.toNat + 256 * l1.toNat = 0 →
      exec (.byteArrival t b true) s = .next (after (.trailer 0 kind b [] []))) ∧
    (∀ l0 l1 kind, s.lc.framer = .header [l0, l1, kind] → l0.toNat + 256 * l1.toNat ≠ 0 →
      exec (.byteArrival t b true) s = .next (after (.payload (l0.toNat + 256 * l1.toNat) kind b []))) ∧
    (∀ len kind tag got, s.lc.framer = .payload len kind tag got → got.length + 1 < len →
      exec (.byteArrival t b true) s = .next (after (.payload len kind tag (got ++ [b])))) ∧
    (∀ len kind tag got, s.lc.framer = .payload len kind tag got → got.length + 1 = len →
      exec (.byteArrival t b true) s = .next (after (.trailer len kind tag (got ++ [b]) []))) ∧
    (∀ len kind tag body, s.lc.framer = .trailer len kind tag body [] →
      exec (.byteArrival t b true) s = .next (after (.trailer len kind tag body [b]))) ∧
    (∀ got, s.lc.framer = .drain got → got.length < 2 →
      exec (.byteArrival t b true) s = .next (after (.drain (got ++ [b])))) ∧
    (∀ got, s.lc.framer = .drain got → 2 ≤ got.length → exec (.byteArrival t b true) s = .next (after (.drain got)))

/-- R169, R171: the second CRC byte completes the frame. With the CRC over LEN, KIND, TAG and payload, the frame joins the
inbox if that holds fewer than four, and is answered BUSY otherwise; with another CRC it is answered BAD_FRAME. The
framer returns to HUNT. -/
def Obligations.FrameCompletes : Prop :=
  ∀ (s : State) (t : Stamp) (c0 c1 : Byte) (len : Nat) (kind tag : Byte) (body : List Byte),
    s.lc.framer = .trailer len kind tag body [c0] →
    let sound := c0.toNat + 256 * c1.toNat = (crc (leBytes 2 len ++ kind :: tag :: body)).toNat
    let hunting := { s.lc with framer := Framer.hunt, lastByte := t }
    (sound → s.lc.inbox.length < 4 →
      exec (.byteArrival t c1 true) s = .next
        { s with timebase := t, lc := { hunting with inbox := s.lc.inbox ++ [⟨kind, tag, body⟩] } }) ∧
    (sound → 4 ≤ s.lc.inbox.length →
      exec (.byteArrival t c1 true) s = .next
        { s with timebase := t, lc := { hunting with outbox := s.lc.framerOutbox kind tag .busy } }) ∧
    (¬ sound →
      exec (.byteArrival t c1 true) s = .next
        { s with timebase := t, lc := { hunting with outbox := s.lc.framerOutbox kind tag .badFrame } })

/-- R168 to R171: whatever its KIND, TAG and payload, a request frame of at most 512 payload bytes that comes byte by byte
to a hunting framer reaches the inbox exactly as it was sent, and changes nothing else but the gap timer's start. -/
def Obligations.FrameReachesInbox : Prop :=
  ∀ (s : State) (f : Frame) (stamps : List Stamp) (last : Stamp),
    f.payload.length ≤ 512 → s.lc.framer = .hunt → s.lc.inbox.length < 4 →
    (stamps ++ [last]).length = (requestBytes f).length →
    execAll (List.zipWith (fun t b => Instr.byteArrival t b true) (stamps ++ [last]) (requestBytes f)) s = .next
      { s with timebase := last, lc := { s.lc with lastByte := last, inbox := s.lc.inbox ++ [f] } }

/-- R167, R169, R170, R173: 100 microseconds after the last byte inside a frame the gap expires and the framer hunts again: a
partial frame is dropped without a reply, a drained one is answered BAD_LENGTH with KIND and TAG as received, or 00h.
When a reply finishes sending, it leaves the outbox; on TXD it is the sync byte 3Ch, the length of its data, its KIND plus
80h, its TAG, its status code, its data, and the CRC over all of these but the sync byte, each byte in ten bit times: a
start bit, eight data bits with the least significant first, and a high stop bit. That the start bit is low, a data bit
high for 1, TXD high while no reply is sent, and no pause between the bytes of a reply, is presumed (log entry 20). The
byte time is ten bit times at the rate of the straps. -/
def Obligations.GapsAndReplies : Prop :=
  (∀ (s : State) (t : Stamp), t = s.lc.lastByte + 100#32 →
    ((∃ got, s.lc.framer = .header got) ∨ (∃ len k g got, s.lc.framer = .payload len k g got) ∨
        (∃ len k g body got, s.lc.framer = .trailer len k g body got) →
      exec (.gapExpiry t) s = .next { s with timebase := t, lc := { s.lc with framer := .hunt } }) ∧
    (s.lc.framer = .drain [] →
      exec (.gapExpiry t) s = .next
        { s with timebase := t, lc := { s.lc with framer := .hunt, outbox := s.lc.framerOutbox 0#8 0#8 .badLength } }) ∧
    (∀ k, s.lc.framer = .drain [k] →
      exec (.gapExpiry t) s = .next
        { s with timebase := t, lc := { s.lc with framer := .hunt, outbox := s.lc.framerOutbox k 0#8 .badLength } }) ∧
    (∀ k g, s.lc.framer = .drain [k, g] →
      exec (.gapExpiry t) s = .next
        { s with timebase := t, lc := { s.lc with framer := .hunt, outbox := s.lc.framerOutbox k g .badLength } })) ∧
  (∀ (s : State) (t : Stamp) (r : Reply) (rest : List Reply), s.lc.outbox = r :: rest →
    exec (.replySent t) s = .next { s with timebase := t, lc := { s.lc with outbox := rest } } ∧
    ∀ (k : Nat) (b : Byte), (replyBytes r)[k]? = some b →
      s.lc.txd (10 * k) = false ∧ (∀ i < 8, s.lc.txd (10 * k + 1 + i) = b.getLsbD i) ∧ s.lc.txd (10 * k + 9) = true) ∧
  (∀ (lc : LC) (n : Nat), lc.outbox = [] → lc.txd n = true) ∧
  (∀ rate1 rate0 : Bool, bitRate rate1 rate0 * byteTimeNs rate1 rate0 = 10 * 1000000000 ∧
    bitRate rate1 rate0 =
      if rate1 then (if rate0 then 500000 else 4000000) else (if rate0 then 2000000 else 1000000)) ∧
  ∀ r : Reply,
    let bytes := replyBytes r
    let code : Byte :=
      match r.status with
      | .ok => 0x00#8
      | .adjusted => 0x01#8
      | .badFrame => 0x02#8
      | .badLength => 0x03#8
      | .unknownKind => 0x04#8
      | .badValue => 0x05#8
      | .wrongState => 0x06#8
      | .notReady => 0x07#8
      | .busy => 0x08#8
    bytes.length = r.data.length + 8 ∧ bytes.take 1 = [0x3C#8] ∧
    (r.data.length < 65536 → field bytes 1 2 = r.data.length) ∧
    (∃ kind, (bytes.drop 3).take 3 = [kind, r.tag, code] ∧ kind.toNat = (r.kind.toNat + 0x80) % 256) ∧
    (bytes.drop 6).take r.data.length = r.data ∧
    field bytes (6 + r.data.length) 2 = (crc ((bytes.drop 1).take (r.data.length + 5))).toNat

/-! ### Reports -/

/-- R175: IDENTIFY returns the 18 bytes of the part's identity in every run state and changes nothing else. -/
def Obligations.Identify : Prop :=
  ∀ (s : State) (t : Stamp) (g : Byte) (rest : List Frame), s.asks 0x01#8 g [] rest →
    exec (.identify t g []) s = .next (s.answered t rest 0x01#8 g .ok
      [0xC7#8, 0x01#8, 0x20#8, 0x04#8, 0x01#8, 0x04#8, 0x03#8, 0x40#8, 0x01#8, 0x80#8, 0x07#8, 0xF0#8, 0x00#8, 0x00#8,
        0x05#8, 0x00#8, 0x02#8, 0x04#8])

/-- R176, R179: GET_STATUS is answered in every run state with 347 bytes that hold the groups in their order, with the
timebase at the request's own stamp, the states under their codes, and the last update record, 114 bytes, field by field;
and it changes nothing. -/
def Obligations.StatusReport : Prop :=
  ∀ (s : State) (t : Stamp) (g : Byte) (rest : List Frame), s.asks 0x02#8 g [] rest →
    ∃ d, exec (.getStatus t g []) s = .next (s.answered t rest 0x02#8 g .ok d) ∧ d.length = 347 ∧
      d.take 5 = leBytes 1 s.pu.run.code ++ leBytes 4 t.toNat ∧
      (d.drop 5).take 20 =
        leBytes 4 s.pu.compare.toNat ++ leBytes 4 s.pu.periodInForce ++ leBytes 4 s.pu.pendingPeriod ++
        leBytes 4 s.pu.maxAge ++ leBytes 4 s.pu.frameNo.toNat ∧
      (d.drop 25).take 8 =
        leBytes 1 s.ce.state.code ++
        leBytes 2 (match s.ce.state with
          | .idle => 0
          | .composing | .full => s.ce.line
          | .finished => 960) ++
        leBytes 1 s.op.fifo.length ++ leBytes 2 s.op.counter ++ leBytes 2 s.op.underruns ∧
      (∀ c : Camera, (d.drop (33 + c.val)).take 1 = leBytes 1 (s.cr.get c).qual.code) ∧
      (∀ (c : Camera) (i : Fin 3),
        (d.drop (37 + 36 * c.val + 12 * i.val)).take 12 =
          match (s.fmc.rings.get c).get i with
          | .free => leBytes 12 0
          | .filling o => leBytes 1 1 ++ leBytes 1 0 ++ leBytes 4 o.toNat ++ leBytes 4 0 ++ leBytes 2 0
          | .ready o e n => leBytes 1 2 ++ leBytes 1 0 ++ leBytes 4 o.toNat ++ leBytes 4 e.toNat ++ leBytes 2 n.toNat
          | .held o e n p _ =>
            leBytes 1 3 ++ leBytes 1 (if p then 1 else 0) ++ leBytes 4 o.toNat ++ leBytes 4 e.toNat ++ leBytes 2 n.toNat) ∧
      (∀ v : Fin 4, (d.drop (181 + v.val)).take 1 = leBytes 1 (s.vs.slots.get v).state.code) ∧
      (d.drop 185).take 6 =
        leBytes 1 s.vs.selection.code ++ leBytes 1 s.vs.pendingBody.toNat ++ leBytes 1 s.vs.body.toNat ++
        [s.vs.fill.y, s.vs.fill.cb, s.vs.fill.cr] ∧
      (d.drop 191).take 9 =
        leBytes 1 (if s.hu.settings.auto then 1 else 0) ++ leBytes 1 s.hu.settings.stepLimit ++
        leBytes 2 s.hu.settings.gmin ++ leBytes 2 s.hu.settings.gmax ++ leBytes 2 s.hu.settings.nmin ++
        leBytes 1 (if s.hu.settings.relief then 1 else 0) ∧
      (∀ c : Camera, (d.drop (200 + 2 * c.val)).take 2 = leBytes 2 (s.hu.gains.get c)) ∧
      (∀ c : Camera, (field d 208 1).testBit c.val = s.hu.relief.get c) ∧
      (s.hu.last = none → (d.drop 209).take 114 = leBytes 114 0) ∧
      (∀ u, s.hu.last = some u →
        (d.drop 209).take 6 = leBytes 1 1 ++ leBytes 4 u.frameNo.toNat ++ leBytes 1 (if u.auto then 1 else 0) ∧
        (∀ k : Fin 4,
          (d.drop (215 + 13 * k.val)).take 13 =
            leBytes 4 (u.seams.get k).1.n ++ leBytes 4 (u.seams.get k).1.sa ++ leBytes 4 (u.seams.get k).1.sb ++
            leBytes 1 (if (u.seams.get k).2 then 1 else 0)) ∧
        ∀ c : Camera,
          (d.drop (267 + 14 * c.val)).take 14 =
            leBytes 4 (u.cams.get c).coverage ++
            leBytes 1 (match (u.cams.get c).outcome with
              | .updated => 0
              | .heldNoSeam => 1
              | .heldOwnZero => 2
              | .heldOff => 3) ++
            leBytes 2 (u.cams.get c).oldGain ++ leBytes 1 (if (u.cams.get c).reliefUsed then 1 else 0) ++
            (match (u.cams.get c).move with
              | none => leBytes 4 0
              | some (ratio, move) => leBytes 2 ratio ++ leBytes 2 (move % 65536).toNat) ++
            leBytes 2 (u.cams.get c).newGain) ∧
      ([RunState.startup, .memoryFault, .stopped, .running, .stopping].map RunState.code = [0, 1, 2, 3, 4] ∧
        [Qual.disabled, .noSignal, .acquiring, .locked, .holdover].map Qual.code = [0, 1, 2, 3, 4] ∧
        [ViewState.empty, .loading, .closing, .ready, .pending, .active].map ViewState.code = [0, 1, 2, 3, 4, 5] ∧
        [CompState.idle, .composing, .full, .finished].map CompState.code = [0, 1, 2, 3] ∧
        Selection.code .nonePending = 0 ∧ Selection.code .withdraw = 1 ∧
        ∀ v : Fin 4, Selection.code (.slot v) = 16 + v.val) ∧
      (d.drop 323).take 5 =
        leBytes 1 s.nq.queue.length ++ leBytes 1 (if s.nq.lost then 1 else 0) ++
        leBytes 1 (if s.nq.attention then 1 else 0) ++ leBytes 1 s.nq.threshold.val ++
        leBytes 1 (if s.nq.activeHigh then 1 else 0) ∧
      (∀ k : NoticeKind, (d.drop (328 + 2 * (k.code - 1))).take 2 =
        leBytes 1 (if (s.nq.policy.get k).masked then 1 else 0) ++ leBytes 1 (s.nq.policy.get k).priority.val) ∧
      (d.drop 346).take 1 = leBytes 1 s.nq.history.length

/-- R74, R156, R174: GET_CAMERA and GET_FAULTS return 84 and 49 bytes with the camera's or the fault unit's values at the
places that the catalogue gives, and change nothing. -/
def Obligations.CameraAndFaultReports : Prop :=
  (∀ (s : State) (t : Stamp) (g b : Byte) (rest : List Frame) (c : Camera),
    b.toNat = c.val → s.asksReady 0x14#8 g [b] rest →
    ∃ d, exec (.getCamera t g [b]) s = .next (s.answered t rest 0x14#8 g .ok d) ∧ d.length = 84 ∧
      (∀ x, (s.cr.get c).descriptor = some x →
        d.take 20 =
          leBytes 1 1 ++ leBytes 2 x.width ++ leBytes 2 x.height ++ leBytes 2 x.linePeriod ++ leBytes 4 x.nominal ++
          leBytes 1 x.tolerance ++ leBytes 4 x.silenceUs ++ leBytes 2 x.silenceLines ++ leBytes 1 x.acquire ++
          leBytes 1 x.lose) ∧
      ((s.cr.get c).descriptor = none → d.take 20 = leBytes 20 0) ∧
      (d.drop 20).take 3 =
        leBytes 1 (s.cr.get c).qual.code ++ leBytes 1 (s.cr.get c).goodRun ++ leBytes 1 (s.cr.get c).badRun ∧
      (d.drop 23).take 3 =
        (match (s.cr.get c).openFrame with
          | none => leBytes 1 0 ++ leBytes 2 0
          | some f => leBytes 1 (match f.failure with
              | none => 1
              | some _ => 2) ++ leBytes 2 f.next) ∧
      (d.drop 26).take 9 =
        (match (s.cr.get c).lastInfo with
          | none => leBytes 9 0
          | some i =>
            leBytes 1 1 ++ leBytes 2 i.counter.toNat ++ leBytes 2 i.brightness.toNat ++ leBytes 2 i.exposure.toNat ++
            [i.gainCode, i.temperature]) ∧
      (d.drop 35).take 3 =
        (match (s.cr.get c).bprev with
          | none => leBytes 3 0
          | some v => leBytes 1 1 ++ leBytes 2 v.toNat) ∧
      (d.drop 38).take 3 =
        (match (s.cr.get c).lastPublished with
          | none => leBytes 3 0
          | some v => leBytes 1 1 ++ leBytes 2 v.toNat) ∧
      (d.drop 41).take 3 = leBytes 2 (s.hu.gains.get c) ++ leBytes 1 (if s.hu.relief.get c then 1 else 0) ∧
      d.drop 44 =
        leBytes 4 (s.cr.get c).counters.opened.toNat ++ leBytes 4 (s.cr.get c).counters.good.toNat ++
        leBytes 4 (s.cr.get c).counters.badInfoCrc.toNat ++ leBytes 4 (s.cr.get c).counters.badStructure.toNat ++
        leBytes 4 (s.cr.get c).counters.badLineLength.toNat ++ leBytes 4 (s.cr.get c).counters.badOverflow.toNat ++
        leBytes 4 (s.cr.get c).counters.badPeriod.toNat ++ leBytes 4 (s.cr.get c).counters.skipped.toNat ++
        leBytes 4 (s.cr.get c).counters.published.toNat ++ leBytes 4 (s.cr.get c).counters.abandoned.toNat) ∧
  (∀ (s : State) (t : Stamp) (g b : Byte) (rest : List Frame), 4 ≤ b.toNat → s.asksReady 0x14#8 g [b] rest →
    exec (.getCamera t g [b]) s = .next (s.answered t rest 0x14#8 g .badValue [])) ∧
  ∀ (s : State) (t : Stamp) (g : Byte) (rest : List Frame), s.asksReady 0x38#8 g [] rest →
    ∃ d, exec (.getFaults t g []) s = .next (s.answered t rest 0x38#8 g .ok d) ∧ d.length = 49 ∧
      (∀ (c : Camera) (k : FaultKind), (field d (2 * c.val) 2).testBit (k.code - 1) = (s.fu.sticky.get c).get k) ∧
      (∀ k : FaultKind, (field d 8 2).testBit (k.code - 1) = s.fu.stickyOut.get k) ∧
      (s.fu.first = none → (d.drop 10).take 14 = leBytes 14 0) ∧
      (∀ x, s.fu.first = some x →
        (d.drop 10).take 14 =
          leBytes 1 1 ++ leBytes 1 x.fault.kind.code ++ leBytes 1 x.fault.source.code ++ leBytes 4 x.fault.stamp.toNat ++
          leBytes 1 ((if x.fault.counter.isSome then 1 else 0) + (if x.fault.line.isSome then 2 else 0) +
            (if x.fault.slot.isSome then 4 else 0)) ++
          leBytes 2 ((x.fault.counter.map BitVec.toNat).getD 0) ++ leBytes 2 (x.fault.line.getD 0) ++
          leBytes 1 ((x.fault.slot.map Fin.val).getD 0) ++ leBytes 1 (if x.more then 1 else 0)) ∧
      (∀ k : FaultKind, (d.drop (24 + 2 * (k.code - 1))).take 2 =
        leBytes 1 (if (s.fu.policy.get k).masked then 1 else 0) ++
        leBytes 1 (if (s.fu.policy.get k).containing then 1 else 0)) ∧
      (∀ c : Camera, (field d 44 1).testBit c.val = s.fu.withheld.get c) ∧
      d.drop 45 = leBytes 4 s.fu.withheldFrame.toNat

/-- R39, R165, R180: READ_NODES returns mark and record of 1 to 16 nodes of a LOADING, READY, PENDING or ACTIVE slot, and
GET_HISTORY the summaries from the first one asked for, 1 to 4 of them, 84 bytes each with every field at its offset; both
change nothing, and are refused otherwise. -/
def Obligations.NodesAndHistoryReports : Prop :=
  (∀ (s : State) (t : Stamp) (g b n : Byte) (rest : List Frame) (first : Nat), first < 65536 →
    s.asksReady 0x24#8 g (b :: leBytes 2 first ++ [n]) rest →
    ((¬ (b.toNat < 4 ∧ 1 ≤ n.toNat ∧ n.toNat ≤ 16 ∧ first + n.toNat ≤ 2806)) →
      exec (.readNodes t g (b :: leBytes 2 first ++ [n])) s = .next (s.answered t rest 0x24#8 g .badValue [])) ∧
    ∀ v : Fin 4, b.toNat = v.val → 1 ≤ n.toNat → n.toNat ≤ 16 → first + n.toNat ≤ 2806 →
      ((s.vs.slots.get v).state = .empty ∨ (s.vs.slots.get v).state = .closing →
        exec (.readNodes t g (b :: leBytes 2 first ++ [n])) s = .next (s.answered t rest 0x24#8 g .wrongState [])) ∧
      ((s.vs.slots.get v).state ≠ .empty → (s.vs.slots.get v).state ≠ .closing →
        ∃ d, exec (.readNodes t g (b :: leBytes 2 first ++ [n])) s = .next (s.answered t rest 0x24#8 g .ok d) ∧
          d.length = 29 * n.toNat ∧
          ∀ k, k < n.toNat →
            (d.drop (29 * k)).take 29 =
              (match keyGet (s.vs.slots.get v).nodes (first + k) with
                | none => leBytes 29 0
                | some x => 1#8 :: nodeRecordBytes x))) ∧
  ∀ (s : State) (t : Stamp) (g first count : Byte) (rest : List Frame), s.asksReady 0x42#8 g [first, count] rest →
    (¬ (first.toNat ≤ 7 ∧ 1 ≤ count.toNat ∧ count.toNat ≤ 4) →
      exec (.getHistory t g [first, count]) s = .next (s.answered t rest 0x42#8 g .badValue [])) ∧
    (first.toNat ≤ 7 → 1 ≤ count.toNat → count.toNat ≤ 4 →
      ∃ d, exec (.getHistory t g [first, count]) s = .next (s.answered t rest 0x42#8 g .ok d) ∧
        d.length = 1 + 84 * min count.toNat (s.nq.history.length - first.toNat) ∧
        d.take 1 = leBytes 1 s.nq.history.length ∧
        ∀ k x, k < count.toNat → s.nq.history[first.toNat + k]? = some x →
          let part := fun (o n : Nat) => (d.drop (1 + 84 * k + o)).take n
          part 0 4 = leBytes 4 x.frameNo.toNat ∧ part 4 4 = leBytes 4 x.start.toNat ∧
          (∀ v, x.view = some v → part 8 1 = leBytes 1 v.val) ∧ (x.view = none → part 8 1 = [0xFF#8]) ∧
          part 9 1 = leBytes 1 x.body.toNat ∧
          (∀ j : Fin 4, part (10 + 4 * j.val) 4 = leBytes 4 (x.seamCounts.get j)) ∧
          part 26 2 = leBytes 2 x.underruns ∧
          ∀ c : Camera,
            let y := x.cams.get c
            part (28 + 14 * c.val) 1 =
              leBytes 1 (match y.disposition with
                | .composed => 0
                | .disabled => 1
                | .notQualified => 2
                | .withheld => 3
                | .stale => 4
                | .cut => 5) ∧
            part (29 + 14 * c.val) 1 =
              leBytes 1 ((if y.counter.isSome then 1 else 0) + (if y.age.isSome then 2 else 0) +
                (if y.repeated then 4 else 0)) ∧
            part (30 + 14 * c.val) 2 = leBytes 2 ((y.counter.map BitVec.toNat).getD 0) ∧
            part (32 + 14 * c.val) 4 = leBytes 4 ((y.age.map BitVec.toNat).getD 0) ∧
            part (36 + 14 * c.val) 4 = leBytes 4 y.coverage ∧ part (40 + 14 * c.val) 2 = leBytes 2 y.gain)

/-! ### Run state, pacing and RESTART -/

/-- What power-on leaves, whatever the state before it (R26, R50, R75, R76, R95, R111, R113, R128, R145, R149, R157, R166,
R167, R178): the timebase at 0 in STARTUP with memory initialisation begun, every ring FREE, every port DISABLED with no
descriptor, the pacing, harmonisation, fault and notice settings at their power-on values, and the straps as sampled. And
R108, R109: training ends 1,000 microseconds after initialisation began, in the fill, or in MEMORY_FAULT with its notice
where the DRAM does not answer; the fill ends 150,000 microseconds after the beginning with every byte zero, no word in
error, the part STOPPED and MEMORY_READY raised. -/
def Obligations.PowerOnAndInitialisation : Prop :=
  (∀ (s : State) (rate1 rate0 : Bool), ∃ s', exec (.powerOn rate1 rate0) s = .next s' ∧
    s'.timebase = 0#32 ∧ s'.pu = ⟨.startup, 0#32, 33333, 33333, 50000, 0#32⟩ ∧
    s'.fmc.init = .training 0#32 ∧ s'.fmc.lastServed = 3 ∧ s'.fmc.transfer = none ∧
    (∀ (c : Camera) (i : Fin 3), (s'.fmc.rings.get c).get i = .free) ∧
    (∀ c : Camera,
      (s'.cr.get c).descriptor = none ∧ (s'.cr.get c).qual = .disabled ∧ (s'.cr.get c).goodRun = 0 ∧
      (s'.cr.get c).badRun = 0 ∧ (s'.cr.get c).openFrame = none ∧ (s'.cr.get c).prevOpen = none ∧
      (s'.cr.get c).fifo = [] ∧ (s'.cr.get c).lastInfo = none ∧ (s'.cr.get c).bprev = none ∧
      (s'.cr.get c).lastPublished = none ∧ (s'.cr.get c).counters = ⟨0, 0, 0, 0, 0, 0, 0, 0, 0, 0⟩) ∧
    (∀ v : Fin 4, (s'.vs.slots.get v).state = .empty ∧ ∀ i, keyGet (s'.vs.slots.get v).nodes i = none) ∧
    s'.vs.selection = .nonePending ∧ s'.vs.pendingBody = 0#4 ∧ s'.vs.body = 0#4 ∧ s'.vs.fill = ⟨16#8, 128#8, 128#8⟩ ∧
    (∀ c z : Fin 4, (s'.vs.zones.get c).get z = ⟨false, 0, 0, 0, 0, 0, false⟩) ∧
    s'.ce.state = .idle ∧ s'.ce.set = none ∧ s'.ce.pixels = [] ∧ (∀ c : Camera, s'.ce.cut.get c = false) ∧
    s'.op.idle = true ∧ s'.op.counter = 0 ∧ s'.op.fifo = [] ∧ s'.op.emitting = none ∧ s'.op.underruns = 0 ∧
    (∀ c : Camera, s'.hu.gains.get c = 256 ∧ s'.hu.relief.get c = false) ∧
    s'.hu.settings = ⟨true, 4, 192, 384, 1024, true⟩ ∧ s'.hu.last = none ∧
    (∀ (src : FaultSource) (k : FaultKind), (s'.fu.marks src).get k = false) ∧
    (∀ k : FaultKind, s'.fu.policy.get k = ⟨false, decide (k = .poison)⟩) ∧
    s'.fu.first = none ∧ (∀ c : Camera, s'.fu.withheld.get c = false) ∧ s'.fu.withheldFrame = 0#32 ∧
    s'.nq.queue = [] ∧ s'.nq.lost = false ∧ s'.nq.threshold = 1 ∧ s'.nq.activeHigh = false ∧ s'.nq.attention = false ∧
    s'.nq.history = [] ∧
    s'.nq.policy =
      ⟨⟨false, 1⟩, ⟨false, 0⟩, ⟨false, 2⟩, ⟨false, 1⟩, ⟨false, 2⟩, ⟨false, 0⟩, ⟨false, 1⟩, ⟨false, 3⟩, ⟨false, 3⟩⟩ ∧
    s'.lc.framer = .hunt ∧ s'.lc.inbox = [] ∧ s'.lc.outbox = [] ∧ s'.lc.closing = none ∧
    s'.lc.rate1 = rate1 ∧ s'.lc.rate0 = rate0 ∧ s'.pending = s.pending) ∧
  (∀ (s : State) (t start : Stamp), s.fmc.init = .training start → t = start + 1000#32 →
    exec (.trainingComplete t true) s = .next { s with timebase := t, fmc := { s.fmc with init := .filling start } } ∧
    exec (.trainingComplete t false) s = .next
      { s with
        timebase := t, fmc := { s.fmc with init := .idle }, pu := { s.pu with run := .memoryFault }
        nq := s.nq.raise .memoryFault .part 0 t }) ∧
  ∀ (s : State) (t start : Stamp), s.fmc.init = .filling start → t = start + 150000#32 →
    ∃ mem, (∀ a, memRead mem a = 0#8) ∧
      exec (.fillComplete t) s = .next
        { s with
          timebase := t, fmc := { s.fmc with init := .idle, mem := mem, wordErrors := [] }
          pu := { s.pu with run := .stopped }, nq := s.nq.raise .memoryReady .part 0 t }

/-- R115, R117: START in STOPPED makes the part RUNNING with frame number 0 and the first frame start 1,000 microseconds
ahead, is OK without effect in RUNNING and WRONG_STATE in STOPPING; STOP during a frame makes the part STOPPING, between
frames STOPPED at once with its notice, and is OK without effect in STOPPED and STOPPING; both are NOT_READY in STARTUP
and MEMORY_FAULT. -/
def Obligations.StartAndStop : Prop :=
  ∀ (s : State) (t : Stamp) (g : Byte) (rest : List Frame),
    (s.asksReady 0x03#8 g [] rest →
      (s.pu.run = .stopped →
        exec (.start t g []) s = .next
          (({ s with
              pu := { s.pu with run := .running, compare := t + 1000#32, frameNo := 0#32 }
              op := { s.op with idle := false, counter := 0, origin := t, inFrame := false, emitting := none } } :
            State).answered t rest 0x03#8 g .ok [])) ∧
      (s.pu.run = .running → exec (.start t g []) s = .next (s.answered t rest 0x03#8 g .ok [])) ∧
      (s.pu.run = .stopping → exec (.start t g []) s = .next (s.answered t rest 0x03#8 g .wrongState []))) ∧
    (s.asksReady 0x04#8 g [] rest →
      (s.pu.run = .running → s.ce.state ≠ .idle →
        exec (.stop t g []) s = .next
          (({ s with pu := { s.pu with run := .stopping } } : State).answered t rest 0x04#8 g .ok [])) ∧
      (s.pu.run = .running → s.ce.state = .idle →
        exec (.stop t g []) s = .next ((s.halted t).answered t rest 0x04#8 g .ok [])) ∧
      (s.pu.run = .stopped ∨ s.pu.run = .stopping →
        exec (.stop t g []) s = .next (s.answered t rest 0x04#8 g .ok []))) ∧
    (s.pu.run = .startup ∨ s.pu.run = .memoryFault →
      (s.asks 0x03#8 g [] rest → exec (.start t g []) s = .next (s.answered t rest 0x03#8 g .notReady [])) ∧
      (s.asks 0x04#8 g [] rest → exec (.stop t g []) s = .next (s.answered t rest 0x04#8 g .notReady [])))

/-- R114: SET_TIMING clamps both values into their ranges, holds them from then on, and answers them, ADJUSTED if it
clamped one. -/
def Obligations.SetTiming : Prop :=
  ∀ (s : State) (t : Stamp) (g : Byte) (rest : List Frame) (period age : Nat), period < 2 ^ 32 → age < 2 ^ 32 →
    s.asksReady 0x06#8 g (leBytes 4 period ++ leBytes 4 age) rest →
    exec (.setTiming t g (leBytes 4 period ++ leBytes 4 age)) s = .next
      (({ s with
          pu :=
            { s.pu with
              pendingPeriod := max 31488 (min period 100000), maxAge := max 10000 (min age 200000) } } : State).answered t
        rest 0x06#8 g
        (if 31488 ≤ period ∧ period ≤ 100000 ∧ 10000 ≤ age ∧ age ≤ 200000 then .ok else .adjusted)
        (leBytes 4 (max 31488 (min period 100000)) ++ leBytes 4 (max 10000 (min age 200000))))

/-- R177 with R49, R75, R89, R104, R109, R129, R145, R157 and R166: RESTART is NOT_READY in STARTUP and begins memory
initialisation again in MEMORY_FAULT; elsewhere it resets every block but the link controller, whose inbox, outbox and
framer stay, and cuts a writer transfer short. The manual says only that the rest of the transfer's bytes are not written.
That the bytes written are its first ones in order, each word of them with a fresh code, is the model's choice (log
entry 3), as is the place of slot and row in the frame memory (log entry 5); how many they are is a free value, and the
statement says only that there is such a number. -/
def Obligations.Restart : Prop :=
  ∀ (s : State) (t : Stamp) (g : Byte) (rest : List Frame), s.asks 0x05#8 g [] rest →
    (s.pu.run = .startup → exec (.restart t g []) s = .next (s.answered t rest 0x05#8 g .notReady [])) ∧
    (s.pu.run = .memoryFault →
      exec (.restart t g []) s = .next
        (({ s with pu := { s.pu with run := .startup }, fmc := { s.fmc with init := .training t } } : State).answered t
          rest 0x05#8 g .ok [])) ∧
    (s.pu.run ≠ .startup → s.pu.run ≠ .memoryFault → s.hu.settings.gmin ≤ s.hu.settings.gmax →
      ∃ (n free : Nat) (m : FMC), s.wroteFirst n m ∧
        exec (.restart t g []) s = .next
          (({ s with
              cr := s.cr.map fun r =>
                { r with
                  qual := if r.qual = .disabled then .disabled else .noSignal
                  goodRun := 0, badRun := 0, openFrame := none, prevOpen := none, fifo := [], lastInfo := none
                  bprev := none, lastPublished := none, counters := ⟨0, 0, 0, 0, 0, 0, 0, 0, 0, 0⟩ }
              fmc :=
                { s.fmc with
                  rings := .all (.all .free), transfer := none, mem := m.mem, wordErrors := m.wordErrors }
              vs :=
                { s.vs with
                  slots := s.vs.slots.map fun x =>
                    { x with state := if x.state = .active ∨ x.state = .pending then .ready else x.state }
                  selection := .nonePending, pendingBody := 0#4, body := 0#4 }
              pu := { s.pu with run := .stopped }
              ce := CE.reset
              op := OP.reset
              hu :=
                { s.hu with
                  gains := .all (max s.hu.settings.gmin (min 256 s.hu.settings.gmax)), relief := .all false, last := none }
              fu :=
                { s.fu with
                  sticky := .all (PerFault.all false), stickyOut := PerFault.all false, first := none
                  withheld := .all false, withheldFrame := 0#32 }
              nq := { s.nq with queue := [], lost := false, attention := false, history := [] }
              free := free } : State).answered t rest 0x05#8 g .ok []))

/-! ### Camera ports -/

/-- R56, R78, R84: SET_CAMERA writes all nine fields of a DISABLED port, refuses an enabled port before it looks at the
fields, and refuses a field outside its range; ENABLE_CAMERA takes a DISABLED port with a set descriptor to NO_SIGNAL
with its silence threshold fixed, refuses an empty descriptor, and changes nothing elsewhere. -/
def Obligations.SetAndEnableCamera : Prop :=
  (∀ (s : State) (t : Stamp) (g b : Byte) (rest : List Frame) (d : Descriptor),
    d.width < 2 ^ 16 → d.height < 2 ^ 16 → d.linePeriod < 2 ^ 16 → d.nominal < 2 ^ 32 → d.tolerance < 2 ^ 8 →
    d.silenceUs < 2 ^ 32 → d.silenceLines < 2 ^ 16 → d.acquire < 2 ^ 8 → d.lose < 2 ^ 8 →
    let p :=
      b :: (leBytes 2 d.width ++ leBytes 2 d.height ++ leBytes 2 d.linePeriod ++ leBytes 4 d.nominal ++
        leBytes 1 d.tolerance ++ leBytes 4 d.silenceUs ++ leBytes 2 d.silenceLines ++ leBytes 1 d.acquire ++
        leBytes 1 d.lose)
    let inRange :=
      (320 ≤ d.width ∧ d.width ≤ 1920 ∧ d.width % 2 = 0) ∧ (240 ≤ d.height ∧ d.height ≤ 1280) ∧
      (16 ≤ d.linePeriod ∧ d.linePeriod ≤ 65535) ∧ (10000 ≤ d.nominal ∧ d.nominal ≤ 200000) ∧
      (1 ≤ d.tolerance ∧ d.tolerance ≤ 20) ∧ (1000 ≤ d.silenceUs ∧ d.silenceUs ≤ 200000) ∧
      (1 ≤ d.silenceLines ∧ d.silenceLines ≤ 1280) ∧ (1 ≤ d.acquire ∧ d.acquire ≤ 15) ∧ (1 ≤ d.lose ∧ d.lose ≤ 15)
    s.asksReady 0x10#8 g p rest →
    (4 ≤ b.toNat → exec (.setCamera t g p) s = .next (s.answered t rest 0x10#8 g .badValue [])) ∧
    ∀ c : Camera, b.toNat = c.val →
      ((s.cr.get c).qual ≠ .disabled →
        exec (.setCamera t g p) s = .next (s.answered t rest 0x10#8 g .wrongState [])) ∧
      ((s.cr.get c).qual = .disabled → ¬ inRange →
        exec (.setCamera t g p) s = .next (s.answered t rest 0x10#8 g .badValue [])) ∧
      ((s.cr.get c).qual = .disabled → inRange →
        exec (.setCamera t g p) s = .next
          (({ s with cr := s.cr.set c { s.cr.get c with descriptor := some d } } : State).answered t rest 0x10#8 g .ok
            []))) ∧
  ∀ (s : State) (t : Stamp) (g b : Byte) (rest : List Frame), s.asksReady 0x11#8 g [b] rest →
    (4 ≤ b.toNat → exec (.enableCamera t g [b]) s = .next (s.answered t rest 0x11#8 g .badValue [])) ∧
    ∀ c : Camera, b.toNat = c.val →
      ((s.cr.get c).qual ≠ .disabled → exec (.enableCamera t g [b]) s = .next (s.answered t rest 0x11#8 g .ok [])) ∧
      ((s.cr.get c).qual = .disabled → (s.cr.get c).descriptor = none →
        exec (.enableCamera t g [b]) s = .next (s.answered t rest 0x11#8 g .wrongState [])) ∧
      ∀ d, (s.cr.get c).qual = .disabled → (s.cr.get c).descriptor = some d →
        exec (.enableCamera t g [b]) s = .next
          (({ s with
              cr := s.cr.set c
                { s.cr.get c with
                  qual := .noSignal, goodRun := 0, badRun := 0
                  threshold := max d.silenceUs (min d.silenceLines d.height * d.linePeriod / 16) } } : State).answered t
            rest 0x11#8 g .ok [])

/-- R72, R75, R87, R88, R101, R145, R157: DISABLE_CAMERA and RESET_CAMERA drop the open frame, empty the write FIFO, free
the FILLING and READY slots and mark the HELD slot released; a disabled port counts the frame and keeps its counters and
last INFO, a reset port clears both, with gain, relief flag and marks of that camera. A writer transfer of that camera
is cut short; no other transfer and no other camera is touched. The manual says only that the rest of the transfer's bytes
are not written. That the bytes written are its first ones in order, each word of them with a fresh code, is the model's
choice (log entry 3), as is the place of slot and row in the frame memory (log entry 5); how many they are is a free value,
and the statement says only that there is such a number. In DISABLED, where one rule has DISABLE_CAMERA change nothing and
another has the ring released all the same, that a HELD slot is marked released is the model's reading (log entry 19). -/
def Obligations.DisableAndResetCamera : Prop :=
  ∀ (s : State) (t : Stamp) (g b : Byte) (rest : List Frame) (c : Camera), b.toNat = c.val →
    let r := s.cr.get c
    let ring := (s.fmc.rings.get c).map fun x =>
      match x with
      | .filling _ | .ready _ _ _ | .free => SlotRecord.free
      | .held o e n p _ => .held o e n p true
    let cutOff := fun (m : FMC) (free : Nat) =>
      (s.fmc.transfer = some (.writer c) → ∃ n, s.wroteFirst n m) ∧
      (s.fmc.transfer ≠ some (.writer c) →
        m.mem = s.fmc.mem ∧ m.wordErrors = s.fmc.wordErrors ∧ free = s.free)
    let left := fun (m : FMC) =>
      { s.fmc with
        rings := s.fmc.rings.set c ring, mem := m.mem, wordErrors := m.wordErrors
        transfer := if s.fmc.transfer = some (.writer c) then none else s.fmc.transfer }
    (s.asksReady 0x12#8 g [b] rest →
      ∃ (m : FMC) (free : Nat), cutOff m free ∧
        exec (.disableCamera t g [b]) s = .next
          (({ s with
              cr := s.cr.set c
                { r with
                  qual := .disabled, goodRun := 0, badRun := 0, openFrame := none, prevOpen := none, fifo := []
                  bprev := none, lastPublished := none
                  counters :=
                    if r.openFrame.isSome then { r.counters with abandoned := r.counters.abandoned + 1 }
                    else r.counters }
              fmc := left m
              free := free } : State).answered t rest 0x12#8 g .ok [])) ∧
    (s.asksReady 0x13#8 g [b] rest → s.hu.settings.gmin ≤ s.hu.settings.gmax →
      ∃ (m : FMC) (free : Nat), cutOff m free ∧
        exec (.resetCamera t g [b]) s = .next
          (({ s with
              cr := s.cr.set c
                { r with
                  qual := if r.qual = .disabled then .disabled else .noSignal
                  goodRun := 0, badRun := 0, openFrame := none, prevOpen := none, fifo := [], lastInfo := none
                  bprev := none, lastPublished := none, counters := ⟨0, 0, 0, 0, 0, 0, 0, 0, 0, 0⟩ }
              fmc := left m
              hu :=
                { s.hu with
                  gains := s.hu.gains.set c (max s.hu.settings.gmin (min 256 s.hu.settings.gmax))
                  relief := s.hu.relief.set c false }
              fu := { s.fu with sticky := s.fu.sticky.set c (PerFault.all false) }
              free := free } : State).answered t rest 0x13#8 g .ok [])) ∧
    ((∀ x : Byte, 4 ≤ x.toNat → s.asksReady 0x12#8 g [x] rest →
        exec (.disableCamera t g [x]) s = .next (s.answered t rest 0x12#8 g .badValue [])) ∧
      ∀ x : Byte, 4 ≤ x.toNat → s.asksReady 0x13#8 g [x] rest →
        exec (.resetCamera t g [x]) s = .next (s.answered t rest 0x13#8 g .badValue []))

/-- R58, R59, R73, R79, R85: a FRAME_OPEN at a DISABLED port does nothing; in NO_SIGNAL it starts acquisition and opens a
frame; in the other states it opens a frame, after a frame still open has been closed as bad, for STRUCTURE where it had
no failure yet. The new frame fails PERIOD at once where its interval misses the nominal period by more than the
tolerance. -/
def Obligations.FrameOpens : Prop :=
  ∀ (s : State) (t : Stamp) (c : Camera) (p : List Byte),
    let r := s.cr.get c
    ((s.cr.get c).qual = .disabled → exec (.frameOpen t c p) s = .next { s with timebase := t }) ∧
    (∀ d, r.descriptor = some d →
      let deviation := d.nominal * d.tolerance / 100
      let failure : Option Failure :=
        match r.prevOpen with
        | none => none
        | some q =>
          if d.nominal - deviation ≤ (t - q).toNat ∧ (t - q).toNat ≤ d.nominal + deviation then none
          else some ⟨.period, t, none⟩
      let opened :=
        { r with
          lastArrival := t, openFrame := some ⟨t, none, 0, failure⟩, prevOpen := some t, fifo := r.fifo ++ [.openReq]
          counters := { r.counters with opened := r.counters.opened + 1 } }
      (r.qual = .noSignal →
        exec (.frameOpen t c p) s = .next
          { s with
            timebase := t
            cr := s.cr.set c
              { opened with qual := .acquiring, goodRun := 0, badRun := 0, bprev := none, lastPublished := none } }) ∧
      (r.qual = .acquiring ∨ r.qual = .locked ∨ r.qual = .holdover → r.openFrame = none →
        exec (.frameOpen t c p) s = .next { s with timebase := t, cr := s.cr.set c opened })) ∧
    ∀ f, r.qual = .acquiring ∨ r.qual = .locked ∨ r.qual = .holdover → r.openFrame = some f →
      exec (.frameOpen t c p) s =
        execAll [.frameClose t c p, .frameOpen t c p]
          { s with
            cr := s.cr.set c
              { r with openFrame := some { f with failure := some (f.failure.getD ⟨.struct, t, some f.next⟩) } } }

/-- R51, R53, R57, R60, R61, R62, R65, R67, R69, R85: what the bytes of a packet say and what INFO, LINE and foreign packets
do. The first byte tells the packet: 01h FRAME_OPEN, 02h FRAME_CLOSE, 04h INFO, 08h LINE, any other a foreign packet; the
rest is its payload. A port that is DISABLED or in
NO_SIGNAL ignores them; in the other states each restarts the silence timing; a frame that is not RECEIVING takes no
other notice; and a RECEIVING frame stores a good first INFO, places a line that passes the six checks in their order,
and fails in every other case with the kind and line that the manual gives. -/
def Obligations.PacketsInFrame : Prop :=
  ∀ (s : State) (t : Stamp) (c : Camera) (p : List Byte),
    let r := s.cr.get c
    let with' := fun (x : Receiver) => { s with timebase := t, cr := s.cr.set c { x with lastArrival := t } }
    let packets := fun (i : Instr) =>
      i = .info t c p ∨ i = .line t c p ∨ ∃ type, i = .foreignPacket t c type p ∧ type ∉ [1#8, 2#8, 4#8, 8#8]
    let wire := fun (i : Info) =>
      let body :=
        leBytes 2 i.counter.toNat ++ leBytes 2 i.brightness.toNat ++ leBytes 2 i.exposure.toNat ++
        [i.gainCode, i.temperature]
      body ++ leBytes 2 (crc body).toNat
    (packetCommand t c (0x01#8 :: p) = some (.frameOpen t c p) ∧
      packetCommand t c (0x02#8 :: p) = some (.frameClose t c p) ∧
      packetCommand t c (0x04#8 :: p) = some (.info t c p) ∧ packetCommand t c (0x08#8 :: p) = some (.line t c p) ∧
      ∀ type, type ∉ [1#8, 2#8, 4#8, 8#8] → packetCommand t c (type :: p) = some (.foreignPacket t c type p)) ∧
    (∀ i, packets i → r.qual = .disabled ∨ r.qual = .noSignal → exec i s = .next { s with timebase := t }) ∧
    (∀ i, packets i → r.qual = .acquiring ∨ r.qual = .locked ∨ r.qual = .holdover →
      (r.openFrame = none ∨ ∃ f x, r.openFrame = some f ∧ f.failure = some x) → exec i s = .next (with' r)) ∧
    ∀ f, r.qual = .acquiring ∨ r.qual = .locked ∨ r.qual = .holdover → r.openFrame = some f → f.failure = none →
      let fails := fun (k : FaultKind) (l : Option Nat) =>
        with' { r with openFrame := some { f with failure := some ⟨k, t, l⟩ } }
      (∀ i, f.info = none → f.next = 0 → p = wire i →
        exec (.info t c p) s = .next (with' { r with openFrame := some { f with info := some i } })) ∧
      (f.info = none → f.next = 0 → (∀ i, p ≠ wire i) → exec (.info t c p) s = .next (fails .infoCrc none)) ∧
      (f.info ≠ none → exec (.info t c p) s = .next (fails .struct (some f.next))) ∧
      (f.info = none → exec (.line t c p) s = .next (fails .infoCrc none)) ∧
      (f.info ≠ none → p.length < 2 → exec (.line t c p) s = .next (fails .lineLength (some f.next))) ∧
      (∀ d index data, r.descriptor = some d → f.info ≠ none → index < 65536 → p = leBytes 2 index ++ data →
        (f.next = d.height → exec (.line t c p) s = .next (fails .struct (some d.height))) ∧
        (f.next ≠ d.height → index ≠ f.next → exec (.line t c p) s = .next (fails .struct (some f.next))) ∧
        (f.next ≠ d.height → index = f.next → data.length ≠ 2 * d.width →
          exec (.line t c p) s = .next (fails .lineLength (some index))) ∧
        (f.next ≠ d.height → index = f.next → data.length = 2 * d.width → 2 ≤ lineEntries r.fifo →
          exec (.line t c p) s = .next (fails .overflow (some index))) ∧
        (f.next ≠ d.height → index = f.next → data.length = 2 * d.width → lineEntries r.fifo < 2 →
          exec (.line t c p) s = .next
            (with'
              { r with
                openFrame := some { f with next := f.next + 1 }, fifo := r.fifo ++ [.line index data 0] }))) ∧
      ∀ type, type ∉ [1#8, 2#8, 4#8, 8#8] →
        exec (.foreignPacket t c type p) s = .next (fails .struct (some f.next))

/-- R63, R66, R70, R71, R77, R80, R81, R82: a FRAME_CLOSE that completes a good frame. In ACQUIRING it is abandoned until
the acquire count is reached; the frame that reaches it is published and raises QUALIFIED. In LOCKED and HOLDOVER it is
published, with a SKIP fault where its counter does not follow the last published one, and in HOLDOVER the good run that
reaches the acquire count restores LOCKED. A publish sets the relief flag where the brightness index has moved by more
than a quarter. -/
def Obligations.GoodFrameCloses : Prop :=
  ∀ (s : State) (t : Stamp) (c : Camera) (p : List Byte) (d : Descriptor) (f : OpenFrame) (i : Info),
    let r := s.cr.get c
    r.descriptor = some d → r.openFrame = some f → f.failure = none → f.info = some i → f.next = d.height →
    let skip : Bool :=
      match r.lastPublished with
      | some n => decide (i.counter ≠ n + 1)
      | none => false
    let jump : Bool :=
      match r.bprev with
      | some b => decide (b.toNat < 4 * ((i.brightness.toNat : Int) - (b.toNat : Int)).natAbs)
      | none => false
    let hu := if jump then { s.hu with relief := s.hu.relief.set c true } else s.hu
    let published := fun (q : Qual) (g b : Nat) (skipped : Bool) =>
      { r with
        qual := q, goodRun := g, badRun := b, lastArrival := t, openFrame := none
        fifo := r.fifo ++ [.publishReq t i.counter], lastInfo := some i, bprev := some i.brightness
        lastPublished := some i.counter
        counters :=
          { r.counters with
            good := r.counters.good + 1, published := r.counters.published + 1
            skipped := if skipped then r.counters.skipped + 1 else r.counters.skipped } }
    let faulted := if skip then s.handFault ⟨.cam c, .skip, t, some i.counter, none, none⟩ else s
    (r.qual = .acquiring → r.goodRun + 1 < d.acquire →
      exec (.frameClose t c p) s = .next
        { s with
          timebase := t
          cr := s.cr.set c
            { r with
              goodRun := r.goodRun + 1, badRun := 0, lastArrival := t, openFrame := none
              fifo := r.fifo ++ [.abandonReq], counters := { r.counters with good := r.counters.good + 1 } } }) ∧
    (r.qual = .acquiring → r.goodRun + 1 = d.acquire →
      exec (.frameClose t c p) s = .next
        { s with
          timebase := t, cr := s.cr.set c (published .locked 0 0 false), hu := hu
          nq := s.nq.raise .qualified (.cam c) 0 t }) ∧
    (r.qual = .locked →
      exec (.frameClose t c p) s = .next
        { faulted with timebase := t, cr := s.cr.set c (published .locked 0 0 skip), hu := hu }) ∧
    (r.qual = .holdover → r.goodRun + 1 < d.acquire →
      exec (.frameClose t c p) s = .next
        { faulted with timebase := t, cr := s.cr.set c (published .holdover (r.goodRun + 1) r.badRun skip), hu := hu }) ∧
    (r.qual = .holdover → r.goodRun + 1 = d.acquire →
      exec (.frameClose t c p) s = .next
        { faulted with timebase := t, cr := s.cr.set c (published .locked 0 0 skip), hu := hu })

/-- R63, R64, R73, R77, R80, R81, R82: a FRAME_CLOSE that finds the frame bad: by the failure it holds, for want of its
INFO, or for want of lines. It is counted and abandoned; in LOCKED and HOLDOVER its fault is handed over before
qualification acts; the bad run takes the port to HOLDOVER, or, at the lose count, to ACQUIRING with QUALIFICATION_LOST,
the READY slot dropped, Bprev and the last published counter absent. In OUTSIDE, and at a port that is DISABLED or in
NO_SIGNAL, a FRAME_CLOSE is ignored. -/
def Obligations.BadFrameCloses : Prop :=
  ∀ (s : State) (t : Stamp) (c : Camera) (p : List Byte),
    let r := s.cr.get c
    (r.qual = .disabled ∨ r.qual = .noSignal → exec (.frameClose t c p) s = .next { s with timebase := t }) ∧
    (r.qual = .acquiring ∨ r.qual = .locked ∨ r.qual = .holdover → r.openFrame = none →
      exec (.frameClose t c p) s = .next { s with timebase := t, cr := s.cr.set c { r with lastArrival := t } }) ∧
    ∀ (d : Descriptor) (f : OpenFrame) (x : Failure), r.descriptor = some d → r.openFrame = some f →
      (f.failure = some x ∨ (f.failure = none ∧ f.info = none ∧ x = ⟨.infoCrc, t, none⟩) ∨
        (f.failure = none ∧ f.info ≠ none ∧ f.next < d.height ∧ x = ⟨.struct, t, some f.next⟩)) →
      let counted : StreamCounters :=
        match x.kind with
        | .infoCrc => { r.counters with badInfoCrc := r.counters.badInfoCrc + 1 }
        | .struct => { r.counters with badStructure := r.counters.badStructure + 1 }
        | .lineLength => { r.counters with badLineLength := r.counters.badLineLength + 1 }
        | .overflow => { r.counters with badOverflow := r.counters.badOverflow + 1 }
        | .period => { r.counters with badPeriod := r.counters.badPeriod + 1 }
        | .skip | .poison | .silence | .eccFixed | .underrun => r.counters
      let closed := { r with lastArrival := t, openFrame := none, counters := counted }
      let faulted := s.handFault ⟨.cam c, x.kind, x.stamp, f.info.map Info.counter, x.line, none⟩
      let lost :=
        { faulted with
          timebase := t
          cr := s.cr.set c
            { closed with
              qual := .acquiring, goodRun := 0, badRun := 0, fifo := r.fifo ++ [.abandonReq, .dropReadyReq]
              bprev := none, lastPublished := none }
          nq := faulted.nq.raise .qualificationLost (.cam c) 0 t }
      (r.qual = .acquiring →
        exec (.frameClose t c p) s = .next
          { s with
            timebase := t
            cr := s.cr.set c { closed with goodRun := 0, badRun := 0, fifo := r.fifo ++ [.abandonReq] } }) ∧
      (r.qual = .locked → 2 ≤ d.lose →
        exec (.frameClose t c p) s = .next
          { faulted with
            timebase := t
            cr := s.cr.set c
              { closed with qual := .holdover, goodRun := 0, badRun := 1, fifo := r.fifo ++ [.abandonReq] }
            nq := faulted.nq.raise .holdoverEntered (.cam c) 0 t }) ∧
      (r.qual = .locked → d.lose = 1 → exec (.frameClose t c p) s = .next lost) ∧
      (r.qual = .holdover → r.badRun + 1 < d.lose →
        exec (.frameClose t c p) s = .next
          { faulted with
            timebase := t
            cr := s.cr.set c
              { closed with goodRun := 0, badRun := r.badRun + 1, fifo := r.fifo ++ [.abandonReq] } }) ∧
      (r.qual = .holdover → r.badRun + 1 = d.lose → exec (.frameClose t c p) s = .next lost)

/-- R85, R86: when no packet has come for the silence threshold, the port goes to NO_SIGNAL, an open frame is abandoned and
counted, and a port that was LOCKED or HOLDOVER hands SILENCE, drops its READY slot and raises QUALIFICATION_LOST. -/
def Obligations.SilenceExpires : Prop :=
  ∀ (s : State) (t : Stamp) (c : Camera),
    let r := s.cr.get c
    t = r.lastArrival + BitVec.ofNat 32 r.threshold →
    let silent :=
      { r with
        qual := .noSignal, goodRun := 0, badRun := 0, openFrame := none, prevOpen := none, bprev := none
        lastPublished := none
        counters :=
          if r.openFrame.isSome then { r.counters with abandoned := r.counters.abandoned + 1 } else r.counters }
    let abandon : List FifoEntry := if r.openFrame.isSome then [.abandonReq] else []
    (r.qual = .acquiring →
      exec (.silenceExpiry t c) s = .next
        { s with timebase := t, cr := s.cr.set c { silent with fifo := r.fifo ++ abandon } }) ∧
    (r.qual = .locked ∨ r.qual = .holdover →
      let faulted :=
        s.handFault ⟨.cam c, .silence, t, r.openFrame.bind fun f => f.info.map Info.counter, none, none⟩
      exec (.silenceExpiry t c) s = .next
        { faulted with
          timebase := t, cr := s.cr.set c { silent with fifo := r.fifo ++ abandon ++ [.dropReadyReq] }
          nq := faulted.nq.raise .qualificationLost (.cam c) 0 t })

/-! ### Frame memory -/

/-- R97, R98, R99, R100: at the head of a write FIFO an open claims the FILLING slot where there is one, and else the
lowest-numbered FREE slot, with the stamp at which it is applied; an abandon frees the FILLING slot; a publish frees the
READY slot and makes the FILLING slot READY with close stamp and counter; a drop-ready frees the READY slot; and none of
them changes another slot or anything else. -/
def Obligations.RingRequests : Prop :=
  ∀ (s : State) (t : Stamp) (c : Camera) (rest : List FifoEntry),
    let r := s.cr.get c
    let ring := s.fmc.rings.get c
    let left := fun (q : Ring) =>
      { s with
        timebase := t, cr := s.cr.set c { r with fifo := rest }, fmc := { s.fmc with rings := s.fmc.rings.set c q } }
    (∀ i : Fin 3, r.fifo = .openReq :: rest →
      ((ring.get i).isFilling = true ∧ ∀ j < i, (ring.get j).isFilling = false) ∨
        ((∀ j, (ring.get j).isFilling = false) ∧ ring.get i = .free ∧ ∀ j < i, ring.get j ≠ .free) →
      ∃ q, exec (.openRequest t c) s = .next (left q) ∧ ∀ j, q.get j = if j = i then .filling t else ring.get j) ∧
    (r.fifo = .abandonReq :: rest →
      exec (.abandonRequest t c) s = .next (left (ring.map fun x => if x.isFilling then .free else x))) ∧
    (r.fifo = .dropReadyReq :: rest →
      exec (.dropReadyRequest t c) s = .next (left (ring.map fun x => if x.isReady then .free else x))) ∧
    ∀ close n, r.fifo = .publishReq close n :: rest →
      ((∀ j, (ring.get j).isFilling = false) → exec (.publishRequest t c) s = .next (left ring)) ∧
      ∀ i o, Ring.lawful ring → ring.get i = .filling o →
        ∃ q, exec (.publishRequest t c) s = .next (left q) ∧
          ∀ j, q.get j =
            if j = i then .ready o close n else if (ring.get j).isReady then .free else ring.get j

/-- R94: with the DRAM free, the writer that waits and comes first after the last served one is granted its transfer; only
where no writer waits is the composition engine granted the taps of a camera that it needs, for the pixel that it computes
then. That the operand names the camera whose taps are granted, and that a grant which names a camera whose taps are not
needed gives nothing, though the engine may wait for those of another, are the model's choices (log entry 8); where nobody
waits nothing is granted. -/
def Obligations.ArbiterGrants : Prop :=
  ∀ (s : State) (t : Stamp), s.pu.run ≠ .startup → s.pu.run ≠ .memoryFault → s.fmc.transfer = none →
    let waits := fun (c : Camera) =>
      ∃ k data written rest, (s.cr.get c).fifo = .line k data written :: rest ∧ written < data.length
    (∀ c ask, waits c → (∀ x, waits x → (c - s.fmc.lastServed - 1).val ≤ (x - s.fmc.lastServed - 1).val) →
      exec (.arbiterGrant t ask) s = .next
        { s with timebase := t, fmc := { s.fmc with transfer := some (.writer c), lastServed := c } }) ∧
    (∀ k set, (∀ c, ¬ waits c) → k ∈ s.ce.wanted s.nodes → s.ce.set = some set →
      exec (.arbiterGrant t k.cam) s = .next
        { s with
          timebase := t
          fmc :=
            { s.fmc with
              transfer :=
                some (.taps k.cam k.source.slot k.source.counter set.frameNo s.ce.line s.ce.pixels.length k.u k.v
                  k.source.width k.source.height) } }) ∧
    (∀ ask, (∀ c, ¬ waits c) → (∀ k ∈ s.ce.wanted s.nodes, k.cam ≠ ask) →
      exec (.arbiterGrant t ask) s = .next { s with timebase := t })

/-- R93, R105: a writer transfer writes the next 256 bytes of its line, or what is left of it, into consecutive bytes of
the line's row in the FILLING slot, and no other byte; with the last of them the line leaves the write FIFO. Where slot
and row lie in the frame memory is the model's choice (log entry 5): the manual gives their sizes and not their places. -/
def Obligations.WriterTransfers : Prop :=
  ∀ (s : State) (t : Stamp) (c : Camera) (k written : Nat) (data : List Byte) (rest : List FifoEntry),
    s.fmc.transfer = some (.writer c) → (s.cr.get c).fifo = .line k data written :: rest →
    ∃ m : FMC, s.wroteFirst 256 m ∧
      exec (.writerTransferComplete t) s = .next
        { s with
          timebase := t
          cr := s.cr.set c
            { s.cr.get c with
              fifo := if written + 256 < data.length then .line k data (written + 256) :: rest else rest }
          fmc := { s.fmc with mem := m.mem, wordErrors := m.wordErrors, transfer := none } } ∧
      ∀ i : Fin 3, Trio.find (s.fmc.rings.get c) SlotRecord.isFilling = some i →
        s.inTransfer = some ((c.val * 3 + i.val) * 4915200 + k * 3840 + written, (data.drop written).take 256)

/-- R8, R15, R93, R105, R106, R147: a tap read looks at the words that hold the four taps. A word with one bit in error is
corrected; one with two, be they come at once or one after the other, is not. A read that meets no uncorrectable word
gives the camera's sample to the pixel it was read for, after ECC_FIXED where it met a corrected one; a read that meets
an uncorrectable word poisons the HELD slot, cuts the camera from the frame in progress and hands POISON with the output
line that the engine composes then, ECC_FIXED first where both occur. The words found in error stay so. What the manual
leaves open is the model's choice: a sample for a pixel that is no longer the one computed is dropped, a frame that has
ended is not cut, and POISON carries some line 0..959 where the engine composes none (log entry 7); three bits and more
in a word count as two, and errors outside the words read are not met (log entry 9); the pixels that the sample or the cut
lets the engine compute are computed at once (log entry 18); and the place of the slots in the frame memory
(log entry 5). -/
def Obligations.CompositionTransfers : Prop :=
  ∀ (s : State) (t : Stamp) (ups : List (Nat × WordError)) (c : Camera) (slot : Fin 3) (counter : Half) (no : Count)
    (line x : Nat) (u v : Int) (w h : Nat),
    s.fmc.transfer = some (.taps c slot counter no line x u v w h) →
    let words := tapWords c slot u v w h
    let found := fun (a : Nat) =>
      errorBits (keyGet s.fmc.wordErrors a) + ((ups.filter fun e => e.1 = a).map fun e => errorBits (some e.2)).sum
    let corrected := words.any fun a => decide (found a = 1)
    let lost := words.any fun a => decide (2 ≤ found a)
    let fixed := if corrected then s.handFault ⟨.cam c, .eccFixed, t, some counter, none, some slot⟩ else s
    let current : Prop := ∃ set, s.ce.set = some set ∧ set.frameNo = no
    (0 ≤ u → 0 ≤ v → ∀ a, a ∈ words ↔
      ∃ p l : Nat, (p = u.toNat / 64 ∨ p = min (u.toNat / 64 + 1) (w - 1)) ∧
        (l = v.toNat / 64 ∨ l = min (v.toNat / 64 + 1) (h - 1)) ∧
        a = ((c.val * 3 + slot.val) * 4915200 + l * 3840 + 4 * (p / 2)) / 8) ∧
    ∃ errors : List (Nat × WordError),
      (∀ a, errorBits (keyGet errors a) =
        if a ∈ words then min 2 (found a) else errorBits (keyGet s.fmc.wordErrors a)) ∧
      (lost = false → current → s.ce.state = .composing → s.ce.line = line → s.ce.pixels.length = x →
        exec (.compositionTransferComplete t ups) s = .next
          { fixed with
            timebase := t, fmc := { s.fmc with transfer := none, wordErrors := errors }
            ce :=
              CE.settle s.nodes 720
                { s.ce with samples := s.ce.samples ++ [(c, sampleAt s.fmc.mem c slot u v w h)] } }) ∧
      (lost = false → ¬ (current ∧ s.ce.state = .composing ∧ s.ce.line = line ∧ s.ce.pixels.length = x) →
        exec (.compositionTransferComplete t ups) s = .next
          { fixed with timebase := t, fmc := { s.fmc with transfer := none, wordErrors := errors } }) ∧
      ∀ ring : Ring, lost = true →
        (∀ o e n p rel, (s.fmc.rings.get c).get slot = .held o e n p rel →
          ring = (s.fmc.rings.get c).set slot (.held o e n true rel)) →
        (((s.fmc.rings.get c).get slot).isHeld = false → ring = s.fmc.rings.get c) →
        ∃ (composed free : Nat) (ce : CE),
          (s.ce.state = .composing → composed = s.ce.line ∧ free = s.free) ∧
          (s.ce.state ≠ .composing → composed < 960) ∧
          (current → ce = CE.settle s.nodes 720 { s.ce with cut := s.ce.cut.set c true }) ∧ (¬ current → ce = s.ce) ∧
          exec (.compositionTransferComplete t ups) s = .next
            (({ fixed with
                timebase := t, free := free, ce := ce
                fmc := { s.fmc with transfer := none, wordErrors := errors, rings := s.fmc.rings.set c ring } } :
              State).handFault ⟨.cam c, .poison, t, some counter, some composed, some slot⟩)

/-! ### The view store -/

/-- R31, R32, R33, R34: CLEAR_VIEW empties an EMPTY, LOADING or READY slot; LOAD_NODES writes 1 to 16 consecutive records
into an EMPTY or LOADING slot, all or none, each camera's coordinate where its presence bit is set and its weight always;
both refuse every other slot, and a LOAD_NODES out of range is BAD_VALUE. -/
def Obligations.ClearAndLoadView : Prop :=
  (∀ (s : State) (t : Stamp) (g b : Byte) (rest : List Frame), s.asksReady 0x20#8 g [b] rest →
    (4 ≤ b.toNat → exec (.clearView t g [b]) s = .next (s.answered t rest 0x20#8 g .badValue [])) ∧
    ∀ v : Fin 4, b.toNat = v.val →
      ((s.vs.slots.get v).state = .closing ∨ (s.vs.slots.get v).state = .pending ∨ (s.vs.slots.get v).state = .active →
        exec (.clearView t g [b]) s = .next (s.answered t rest 0x20#8 g .wrongState [])) ∧
      ((s.vs.slots.get v).state = .empty ∨ (s.vs.slots.get v).state = .loading ∨ (s.vs.slots.get v).state = .ready →
        exec (.clearView t g [b]) s = .next
          (({ s with vs := { s.vs with slots := s.vs.slots.set v ⟨.empty, []⟩ } } : State).answered t rest 0x20#8 g .ok
            []))) ∧
  (∀ (s : State) (t : Stamp) (g : Byte) (rest : List Frame) (p : List Byte), s.asksReady 0x21#8 g p rest →
    (p.length < 4 ∨ p.length ≠ 4 + 28 * (p.getD 3 0#8).toNat) →
    exec (.loadNodes t g p) s = .next (s.answered t rest 0x21#8 g .badValue [])) ∧
  ∀ (s : State) (t : Stamp) (g b n : Byte) (rest : List Frame) (first : Nat) (recs : List (List Byte)), first < 65536 →
    (∀ x ∈ recs, x.length = 28) →
    let p := b :: leBytes 2 first ++ n :: recs.flatten
    let part := fun (x : List Byte) (c : Nat) => (x.drop (7 * c)).take 7
    let carries := fun (x : List Byte) (c : Nat) =>
      (NodeCam.mk
        (if 128 ≤ field (part x c) 6 1 then some (signed24 ((part x c).take 3), signed24 (((part x c).drop 3).take 3))
          else none)
        (field (part x c) 6 1 % 128))
    let sound := fun (k : NodeCam) =>
      k.weight ≤ 64 ∧ ∀ u v, k.coord = some (u, v) →
        (-524288 ≤ u ∧ u ≤ 524287) ∧ (-524288 ≤ v ∧ v ≤ 524287)
    s.asksReady 0x21#8 g p rest →
    ((¬ (b.toNat < 4 ∧ 1 ≤ n.toNat ∧ n.toNat ≤ 16 ∧ first + n.toNat ≤ 2806 ∧ recs.length = n.toNat)) →
      exec (.loadNodes t g p) s = .next (s.answered t rest 0x21#8 g .badValue [])) ∧
    ∀ v : Fin 4, b.toNat = v.val → 1 ≤ n.toNat → n.toNat ≤ 16 → first + n.toNat ≤ 2806 → recs.length = n.toNat →
      ((s.vs.slots.get v).state ≠ .empty → (s.vs.slots.get v).state ≠ .loading →
        exec (.loadNodes t g p) s = .next (s.answered t rest 0x21#8 g .wrongState [])) ∧
      ((s.vs.slots.get v).state = .empty ∨ (s.vs.slots.get v).state = .loading →
        ((∃ x ∈ recs, ∃ c : Camera, ¬ sound (carries x c.val)) →
          exec (.loadNodes t g p) s = .next (s.answered t rest 0x21#8 g .badValue [])) ∧
        ((∀ x ∈ recs, ∀ c : Camera, sound (carries x c.val)) →
          ∃ nodes,
            exec (.loadNodes t g p) s = .next
              (({ s with vs := { s.vs with slots := s.vs.slots.set v ⟨.loading, nodes⟩ } } : State).answered t rest 0x21#8
                g .ok []) ∧
            (∀ i, i < first ∨ first + n.toNat ≤ i → keyGet nodes i = keyGet (s.vs.slots.get v).nodes i) ∧
            ∀ k x, recs[k]? = some x →
              keyGet nodes (first + k) = some ⟨carries x 0, carries x 1, carries x 2, carries x 3⟩))

/-- R35, R37, R38: CLOSE_VIEW of a LOADING slot begins a scan that occupies the executor; 3,000 microseconds later the
slot is READY, answered with each camera's count of the cells whose four corners carry its coordinate, if every node is
written, and LOADING again, answered with the lowest unwritten node and their number, if not; the records stay. A slot in
another state is WRONG_STATE. -/
def Obligations.CloseAndScanView : Prop :=
  (∀ (s : State) (t : Stamp) (g b : Byte) (rest : List Frame), s.asksReady 0x22#8 g [b] rest →
    (4 ≤ b.toNat → exec (.closeView t g [b]) s = .next (s.answered t rest 0x22#8 g .badValue [])) ∧
    ∀ v : Fin 4, b.toNat = v.val →
      ((s.vs.slots.get v).state ≠ .loading →
        exec (.closeView t g [b]) s = .next (s.answered t rest 0x22#8 g .wrongState [])) ∧
      ((s.vs.slots.get v).state = .loading →
        exec (.closeView t g [b]) s = .next
          { s with
            timebase := t
            vs := { s.vs with slots := s.vs.slots.set v { s.vs.slots.get v with state := .closing } }
            lc := { s.lc with inbox := rest, closing := some ⟨g, v, t⟩ } })) ∧
  ∀ (s : State) (t start : Stamp) (g : Byte) (v : Fin 4), s.lc.closing = some ⟨g, v, start⟩ → t = start + 3000#32 →
    let nodes := (s.vs.slots.get v).nodes
    let has := fun (c : Camera) (n : Nat) => ((keyGet nodes n).bind fun r => (r.get c).coord).isSome
    let whole := fun (c : Camera) (i j : Nat) =>
      has c (46 * j + i) && has c (46 * j + i + 1) && has c (46 * j + i + 46) && has c (46 * j + i + 47)
    let cells := fun (c : Camera) =>
      ((List.range 60).map fun j => (List.range 45).countP fun i => whole c i j).sum
    let scanned := fun (x : ViewState) (st : Status) (data : List Byte) =>
      { s with
        timebase := t
        vs := { s.vs with slots := s.vs.slots.set v { s.vs.slots.get v with state := x } }
        lc := { s.lc with closing := none, outbox := s.lc.outbox ++ [⟨0x22#8, g, st, data, true⟩] } }
    ((∀ n < 2806, (keyGet nodes n).isSome = true) →
      exec (.scanComplete t) s = .next
        (scanned .ready .ok
          (leBytes 2 (cells 0) ++ leBytes 2 (cells 1) ++ leBytes 2 (cells 2) ++ leBytes 2 (cells 3)))) ∧
    ∀ low, low < 2806 → keyGet nodes low = none → (∀ n < low, (keyGet nodes n).isSome = true) →
      exec (.scanComplete t) s = .next
        (scanned .loading .badValue
          (leBytes 2 low ++ leBytes 2 ((List.range 2806).countP fun n => (keyGet nodes n).isNone)))

/-- R40, R41: SELECT_VIEW of a READY slot makes it PENDING in place of any other; of the PENDING slot it changes nothing; of
the ACTIVE slot it drops what is pending; of another slot it is WRONG_STATE; and SELECT_VIEW(NONE) drops what is pending
and leaves a WITHDRAW. -/
def Obligations.SelectsView : Prop :=
  (∀ (s : State) (t : Stamp) (g b : Byte) (rest : List Frame), s.asksReady 0x23#8 g [b] rest → b ≠ 0xFF#8 →
    (4 ≤ b.toNat → exec (.selectView t g [b]) s = .next (s.answered t rest 0x23#8 g .badValue [])) ∧
    ∀ v : Fin 4, b.toNat = v.val →
      ((s.vs.slots.get v).state = .empty ∨ (s.vs.slots.get v).state = .loading ∨ (s.vs.slots.get v).state = .closing →
        exec (.selectView t g [b]) s = .next (s.answered t rest 0x23#8 g .wrongState [])) ∧
      ((s.vs.slots.get v).state = .pending →
        exec (.selectView t g [b]) s = .next (s.answered t rest 0x23#8 g .ok [])) ∧
      ((s.vs.slots.get v).state = .ready →
        ∃ slots, exec (.selectView t g [b]) s = .next
            (({ s with vs := { s.vs with slots := slots, selection := .slot v } } : State).answered t rest 0x23#8 g .ok
              []) ∧
          ∀ w, slots.get w =
            if w = v then { s.vs.slots.get w with state := .pending }
            else if (s.vs.slots.get w).state = .pending then { s.vs.slots.get w with state := .ready }
            else s.vs.slots.get w) ∧
      ((s.vs.slots.get v).state = .active →
        ∃ slots, exec (.selectView t g [b]) s = .next
            (({ s with vs := { s.vs with slots := slots, selection := .nonePending } } : State).answered t rest 0x23#8 g
              .ok []) ∧
          ∀ w, slots.get w =
            if (s.vs.slots.get w).state = .pending then { s.vs.slots.get w with state := .ready }
            else s.vs.slots.get w)) ∧
  ∀ (s : State) (t : Stamp) (g : Byte) (rest : List Frame), s.asksReady 0x23#8 g [0xFF#8] rest →
    ∃ slots, exec (.selectViewNone t g [0xFF#8]) s = .next
        (({ s with vs := { s.vs with slots := slots, selection := .withdraw } } : State).answered t rest 0x23#8 g .ok
          []) ∧
      ∀ w, slots.get w =
        if (s.vs.slots.get w).state = .pending then { s.vs.slots.get w with state := .ready } else s.vs.slots.get w

/-- R45, R46, R47: SET_ZONE replaces one zone whole where every field is in range; SET_BODY writes the pending body set
for a value up to 15; SET_FILL replaces the fill colour; each is BAD_VALUE with nothing changed otherwise. -/
def Obligations.ZoneBodyAndFill : Prop :=
  (∀ (s : State) (t : Stamp) (g bc bz en i0 i1 j0 j1 cond sense : Byte) (rest : List Frame),
    let p := [bc, bz, en, i0, i1, j0, j1, cond, sense]
    s.asksReady 0x28#8 g p rest →
    let inRange :=
      bc.toNat < 4 ∧ bz.toNat < 4 ∧ en.toNat ≤ 1 ∧ i0.toNat ≤ i1.toNat ∧ i1.toNat ≤ 44 ∧ j0.toNat ≤ j1.toNat ∧
      j1.toNat ≤ 59 ∧ cond.toNat < 4 ∧ sense.toNat ≤ 1
    (¬ inRange → exec (.setZone t g p) s = .next (s.answered t rest 0x28#8 g .badValue [])) ∧
    ∀ c z k : Fin 4, inRange → bc.toNat = c.val → bz.toNat = z.val → cond.toNat = k.val →
      exec (.setZone t g p) s = .next
        (({ s with
            vs :=
              { s.vs with
                zones := s.vs.zones.set c
                  ((s.vs.zones.get c).set z
                    ⟨en = 1#8, i0.toNat, i1.toNat, j0.toNat, j1.toNat, k, sense = 1#8⟩) } } : State).answered t rest
          0x28#8 g .ok [])) ∧
  (∀ (s : State) (t : Stamp) (g b : Byte) (rest : List Frame), s.asksReady 0x29#8 g [b] rest →
    (b.toNat ≤ 15 →
      exec (.setBody t g [b]) s = .next
        (({ s with vs := { s.vs with pendingBody := BitVec.ofNat 4 b.toNat } } : State).answered t rest 0x29#8 g .ok
          [])) ∧
    (15 < b.toNat → exec (.setBody t g [b]) s = .next (s.answered t rest 0x29#8 g .badValue []))) ∧
  ∀ (s : State) (t : Stamp) (g y cb cr : Byte) (rest : List Frame), s.asksReady 0x2A#8 g [y, cb, cr] rest →
    exec (.setFill t g [y, cb, cr]) s = .next
      (({ s with vs := { s.vs with fill := ⟨y, cb, cr⟩ } } : State).answered t rest 0x2A#8 g .ok [])

/-- R34, R179: a node record that LOAD_NODES may write comes back from READ_NODES byte for byte as it stands, and reading
those bytes gives the record again: no bit of a coordinate, of a presence mark or of a weight is lost. -/
def Obligations.NodeRecordRoundTrip : Prop :=
  ∀ x : NodeRecord, nodeRecordInRange x = true →
    (nodeRecordBytes x).length = 28 ∧ nodeRecordOf (nodeRecordBytes x) = x

/-! ### Harmonisation -/

/-- R142, R143: SET_HARMONISE checks mode, relief enable and gain limits, clamps step limit and Nmin, replaces the six
settings together and clamps the four gains into the new range; SET_GAIN writes one gain, clamped into the range in
force. Both answer what is held then, ADJUSTED where a value that they carried was clamped. -/
def Obligations.SetHarmoniseAndGain : Prop :=
  (∀ (s : State) (t : Stamp) (g mode step relief : Byte) (rest : List Frame) (gmin gmax nmin : Nat),
    gmin < 65536 → gmax < 65536 → nmin < 65536 →
    let p := mode :: step :: (leBytes 2 gmin ++ leBytes 2 gmax ++ leBytes 2 nmin ++ [relief])
    s.asksReady 0x30#8 g p rest →
    let passes :=
      mode.toNat ≤ 1 ∧ relief.toNat ≤ 1 ∧ (64 ≤ gmin ∧ gmin ≤ 1023) ∧ (64 ≤ gmax ∧ gmax ≤ 1023) ∧ gmin ≤ gmax
    let held := s.hu.gains.map fun x => max gmin (min x gmax)
    let step' := max 1 (min step.toNat 32)
    let nmin' := max 64 nmin
    (¬ passes → exec (.setHarmonise t g p) s = .next (s.answered t rest 0x30#8 g .badValue [])) ∧
    (passes →
      exec (.setHarmonise t g p) s = .next
        (({ s with
            hu := { s.hu with settings := ⟨mode = 1#8, step', gmin, gmax, nmin', relief = 1#8⟩, gains := held } } :
          State).answered t rest 0x30#8 g
          (if 1 ≤ step.toNat ∧ step.toNat ≤ 32 ∧ 64 ≤ nmin then .ok else .adjusted)
          (mode :: leBytes 1 step' ++ leBytes 2 gmin ++ leBytes 2 gmax ++ leBytes 2 nmin' ++ [relief] ++
            leBytes 2 held.c0 ++ leBytes 2 held.c1 ++ leBytes 2 held.c2 ++ leBytes 2 held.c3)))) ∧
  ∀ (s : State) (t : Stamp) (g b : Byte) (rest : List Frame) (gain : Nat), gain < 65536 →
    s.asksReady 0x31#8 g (b :: leBytes 2 gain) rest → s.hu.settings.gmin ≤ s.hu.settings.gmax →
    (4 ≤ b.toNat → exec (.setGain t g (b :: leBytes 2 gain)) s = .next (s.answered t rest 0x31#8 g .badValue [])) ∧
    ∀ c : Camera, b.toNat = c.val →
      let held := max s.hu.settings.gmin (min gain s.hu.settings.gmax)
      exec (.setGain t g (b :: leBytes 2 gain)) s = .next
        (({ s with hu := { s.hu with gains := s.hu.gains.set c held } } : State).answered t rest 0x31#8 g
          (if s.hu.settings.gmin ≤ gain ∧ gain ≤ s.hu.settings.gmax then .ok else .adjusted) (leBytes 2 held))

/-- R136 to R141, R144: the frame-end update of a camera in AUTO with a usable seam and a positive own sum S. Its target
ratio T is S with its neighbours' sum, halved and over S in 1/256 with the half rounded up, at most 1024; its move
towards G T / 256 is at most the allowed step, four times the step limit after a used relief; its new gain lies in the
range, and has moved by no more than that step. A camera held back, in OFF for every camera, keeps its gain. -/
def Obligations.GainUpdate : Prop :=
  ∀ (h : HU) (no : Count) (tot : Totals) (c : Camera),
    let left := tot.seams.get (c - 1)
    let right := tot.seams.get c
    let own := (if h.settings.nmin ≤ left.n then left.sb else 0) + (if h.settings.nmin ≤ right.n then right.sa else 0)
    let beside := (if h.settings.nmin ≤ left.n then left.sa else 0) + (if h.settings.nmin ≤ right.n then right.sb else 0)
    let gain := h.gains.get c
    let step := if h.relief.get c = true ∧ h.settings.relief = true then 4 * h.settings.stepLimit else h.settings.stepLimit
    let h' := h.update no tot
    (h'.settings = h.settings ∧ h'.relief.get c = false ∧
      ∃ u, h'.last = some u ∧ u.frameNo = no ∧ u.auto = h.settings.auto ∧
        u.seams.get c = (right, decide (h.settings.nmin ≤ right.n)) ∧
        (u.cams.get c).coverage = tot.coverage.get c ∧ (u.cams.get c).oldGain = gain ∧
        (u.cams.get c).newGain = h'.gains.get c) ∧
    (h.settings.auto = false ∨ (left.n < h.settings.nmin ∧ right.n < h.settings.nmin) ∨ own = 0 →
      h'.gains.get c = gain) ∧
    (h.settings.auto = true → h.settings.nmin ≤ left.n ∨ h.settings.nmin ≤ right.n → 0 < own →
      ∃ (ratio target : Nat) (move : Int),
        (2 * own * ratio ≤ 256 * (own + beside) + own ∧ 256 * (own + beside) + own < 2 * own * (ratio + 1) ∨
          ratio = 1024 ∧ 2 * own * 1024 ≤ 256 * (own + beside) + own) ∧
        ratio ≤ 1024 ∧ target = (gain * ratio + 128) / 256 ∧
        move = max (-(step : Int)) (min ((target : Int) - gain) step) ∧
        (h.settings.gmin ≤ h.settings.gmax →
          (h'.gains.get c : Int) = max (h.settings.gmin : Int) (min (gain + move) h.settings.gmax)) ∧
        (h.settings.gmin ≤ gain → gain ≤ h.settings.gmax →
          ((h'.gains.get c : Int) - gain).natAbs ≤ step) ∧
        ∃ u, h'.last = some u ∧ (u.cams.get c).outcome = .updated ∧ (u.cams.get c).move = some (ratio, move))

/-! ### Faults and notices -/

/-- R150, R155: CLEAR_FAULTS clears the marks that both masks name, and the first-fault record where it is asked to, and
answers the 24 bytes that stand then; SET_FAULT_POLICY replaces mask and severity of one kind and answers both; each is
BAD_VALUE with nothing changed where a value is out of range, a fixed severity among them. -/
def Obligations.FaultRequests : Prop :=
  (∀ (s : State) (t : Stamp) (g src fst : Byte) (rest : List Frame) (kinds : Nat), kinds < 65536 →
    let p := src :: leBytes 2 kinds ++ [fst]
    s.asksReady 0x39#8 g p rest →
    (¬ (src.toNat ≤ 31 ∧ kinds ≤ 1023 ∧ fst.toNat ≤ 1) →
      exec (.clearFaults t g p) s = .next (s.answered t rest 0x39#8 g .badValue [])) ∧
    (src.toNat ≤ 31 → kinds ≤ 1023 → fst.toNat ≤ 1 →
      ∃ f : FU,
        exec (.clearFaults t g p) s = .next
          (({ s with fu := f } : State).answered t rest 0x39#8 g .ok ((faultBytes f).take 24)) ∧
        f.policy = s.fu.policy ∧ f.withheld = s.fu.withheld ∧ f.withheldFrame = s.fu.withheldFrame ∧
        f.first = (if fst = 1#8 then none else s.fu.first) ∧
        (∀ (c : Camera) (k : FaultKind),
          (f.sticky.get c).get k =
            ((s.fu.sticky.get c).get k && !(src.toNat.testBit c.val && kinds.testBit (k.code - 1)))) ∧
        ∀ k : FaultKind,
          f.stickyOut.get k = (s.fu.stickyOut.get k && !(src.toNat.testBit 4 && kinds.testBit (k.code - 1))))) ∧
  ∀ (s : State) (t : Stamp) (g kind mask sev : Byte) (rest : List Frame), s.asksReady 0x3A#8 g [kind, mask, sev] rest →
    let fixed := kind.toNat = 8 ∨ kind.toNat = 9 ∨ kind.toNat = 10
    let passes :=
      (1 ≤ kind.toNat ∧ kind.toNat ≤ 10) ∧ mask.toNat ≤ 1 ∧ sev.toNat ≤ 1 ∧ ¬ (sev = 1#8 ∧ fixed)
    (¬ passes → exec (.setFaultPolicy t g [kind, mask, sev]) s = .next (s.answered t rest 0x3A#8 g .badValue [])) ∧
    (passes →
      ∃ policy : PerFault FaultPolicy,
        exec (.setFaultPolicy t g [kind, mask, sev]) s = .next
          (({ s with fu := { s.fu with policy := policy } } : State).answered t rest 0x3A#8 g .ok [mask, sev]) ∧
        ∀ k : FaultKind, policy.get k = if k.code = kind.toNat then ⟨mask = 1#8, sev = 1#8⟩ else s.fu.policy.get k)

/-- R151, R152: a fault that a block hands over sets the mark of its source and kind and no other; an unmasked one fills an
empty first-fault record, or sets the more-faults flag of an occupied one, and then raises a FAULT notice with the
fault's source, the kind's code and the fault's own stamp; a masked one does no more than its mark; and nothing but the
fault unit and the notice unit changes. -/
def Obligations.FaultRecording : Prop :=
  ∀ (s : State) (r : FaultReport),
    let s' := s.handFault r
    let masked := (s.fu.policy.get r.kind).masked
    s' = { s with fu := s'.fu, nq := s'.nq } ∧ s'.fu.policy = s.fu.policy ∧ s'.fu.withheld = s.fu.withheld ∧
    s'.fu.withheldFrame = s.fu.withheldFrame ∧
    (∀ (src : FaultSource) (k : FaultKind),
      (s'.fu.marks src).get k = if src = r.source ∧ k = r.kind then true else (s.fu.marks src).get k) ∧
    (masked = true → s'.fu.first = s.fu.first ∧ s'.nq = s.nq) ∧
    (masked = false →
      (s.fu.first = none → s'.fu.first = some ⟨r, false⟩) ∧
      (∀ x, s.fu.first = some x → s'.fu.first = some ⟨x.fault, true⟩) ∧
      s'.nq = s.nq.raise .fault
        (match r.source with
          | .cam c => .cam c
          | .output => .output)
        r.kind.code r.stamp)

/-- R159, R162, R163: FETCH_NOTICES removes the first records, 1 to 8 of them, returns them with the lost flag and what is
left, clears the flag and re-evaluates the attention line; SET_NOTICE_POLICY replaces the whole policy, re-evaluates the
line and answers the policy; queued records keep their priorities; a value out of range is BAD_VALUE. The level of the line
is low while it is active and high while it is not, and the reverse where the polarity is active-high. -/
def Obligations.NoticeRequests : Prop :=
  (∀ (s : State) (t : Stamp) (g n : Byte) (rest : List Frame), s.asksReady 0x40#8 g [n] rest →
    (¬ (1 ≤ n.toNat ∧ n.toNat ≤ 8) →
      exec (.fetchNotices t g [n]) s = .next (s.answered t rest 0x40#8 g .badValue [])) ∧
    (1 ≤ n.toNat → n.toNat ≤ 8 →
      exec (.fetchNotices t g [n]) s = .next
        (({ s with
            nq :=
              { s.nq with
                queue := s.nq.queue.drop n.toNat, lost := false
                attention := (s.nq.queue.drop n.toNat).any fun r => decide (s.nq.threshold ≤ r.priority) } } :
          State).answered t rest 0x40#8 g .ok
          (leBytes 1 (min n.toNat s.nq.queue.length) ++ leBytes 1 (if s.nq.lost then 1 else 0) ++
            leBytes 1 (s.nq.queue.length - n.toNat) ++
            (s.nq.queue.take n.toNat).flatMap fun r =>
              leBytes 1 r.kind.code ++ leBytes 1 r.source.code ++ leBytes 1 r.detail ++ leBytes 1 r.priority.val ++
              leBytes 4 r.first.toNat ++ leBytes 4 r.last.toNat ++ leBytes 1 r.count)))) ∧
  (∀ (s : State) (t : Stamp) (g th pol : Byte) (rest : List Frame) (kinds : NoticeKind → Byte × Byte),
    let p := (noticeKinds.flatMap fun k => [(kinds k).1, (kinds k).2]) ++ [th, pol]
    s.asksReady 0x41#8 g p rest →
    let passes := (∀ k, (kinds k).1.toNat ≤ 1 ∧ (kinds k).2.toNat < 4) ∧ th.toNat < 4 ∧ pol.toNat ≤ 1
    (¬ passes → exec (.setNoticePolicy t g p) s = .next (s.answered t rest 0x41#8 g .badValue [])) ∧
    (passes →
      ∃ q : NQ,
        exec (.setNoticePolicy t g p) s = .next (({ s with nq := q } : State).answered t rest 0x41#8 g .ok p) ∧
        q.queue = s.nq.queue ∧ q.lost = s.nq.lost ∧ q.history = s.nq.history ∧ q.threshold.val = th.toNat ∧
        q.activeHigh = decide (pol = 1#8) ∧ q.attention = (s.nq.queue.any fun r => decide (q.threshold ≤ r.priority)) ∧
        (q.level = if pol = 1#8 then q.attention else !q.attention) ∧
        ∀ k, (q.policy.get k).masked = decide ((kinds k).1 = 1#8) ∧ (q.policy.get k).priority.val = (kinds k).2.toNat)) ∧
  ∀ q : NQ, q.lawful →
    (q.activeHigh = false → (q.level = false ↔ ∃ r ∈ q.queue, q.threshold ≤ r.priority)) ∧
    (q.activeHigh = true → (q.level = true ↔ ∃ r ∈ q.queue, q.threshold ≤ r.priority))

/-- R160, R161: raising a notice. A masked kind changes nothing. An unmasked one whose key is queued counts up in that
record, stopping at 255, takes its stamp as the last one, and leaves the lost flag and the attention line. A new one is
placed behind the last record of its priority or a higher one, with count 1; into a full queue only by displacing the
last record of the lowest priority, where that is below its own, and otherwise not at all; either sets the lost flag. -/
def Obligations.NoticeRaising : Prop :=
  ∀ (q : NQ) (k : NoticeKind) (src : NoticeSource) (d : Nat) (t : Stamp),
    let new : Notice := ⟨k, src, d, t, t, 1, (q.policy.get k).priority⟩
    let due := fun (l : List Notice) => l.any fun r => decide (q.threshold ≤ r.priority)
    let placed := fun (l l' : List Notice) =>
      ∃ before after, l = before ++ after ∧ l' = before ++ new :: after ∧
        (∀ r ∈ after, r.priority < new.priority) ∧ ∀ r, before.getLast? = some r → new.priority ≤ r.priority
    ((q.policy.get k).masked = true → q.raise k src d t = q) ∧
    (∀ before r after, (q.policy.get k).masked = false → q.queue = before ++ r :: after →
      (r.kind = k ∧ r.source = src ∧ r.detail = d) →
      (∀ x ∈ before, ¬ (x.kind = k ∧ x.source = src ∧ x.detail = d)) →
      q.raise k src d t = { q with queue := before ++ { r with count := min 255 (r.count + 1), last := t } :: after }) ∧
    ((q.policy.get k).masked = false → (∀ x ∈ q.queue, ¬ (x.kind = k ∧ x.source = src ∧ x.detail = d)) →
      (q.queue.length < 32 →
        ∃ l, placed q.queue l ∧ q.raise k src d t = { q with queue := l, attention := due l }) ∧
      ((∀ r ∈ q.queue, new.priority ≤ r.priority) → 32 ≤ q.queue.length →
        q.raise k src d t = { q with lost := true }) ∧
      ∀ before r after, 32 ≤ q.queue.length → q.queue = before ++ r :: after → r.priority < new.priority →
        (∀ x ∈ before, r.priority ≤ x.priority) → (∀ x ∈ after, r.priority < x.priority) →
        ∃ l, placed (before ++ after) l ∧
          q.raise k src d t = { q with queue := l, lost := true, attention := due l })

/-! ### Composition -/

/-- R5, R6, R7, R9, R10, R11: a camera contributes to a pixel exactly when it is in the frame's camera set and not cut, no
active zone of it covers the pixel's cell, all four corners of the cell carry its coordinate, the coordinate interpolated
with the corner factors lies in its source frame and the interpolated weight is positive; and what it contributes is that
coordinate and that weight, each between the least and the greatest of its corner values. -/
def Obligations.PixelContribution : Prop :=
  ∀ (nodes : List (Nat × NodeRecord)) (set : CompSet) (cut : Quad Bool) (x y : Nat) (c : Camera) (w : Nat) (u v : Int)
    (k : Taken),
    let i := x / 16
    let j := y / 16
    let dx : Int := (x % 16 : Nat)
    let dy : Int := (y % 16 : Nat)
    let mean := fun (a00 a10 a01 a11 : Int) =>
      ((16 - dx) * (16 - dy) * a00 + dx * (16 - dy) * a10 + (16 - dx) * dy * a01 + dx * dy * a11 + 128) / 256
    let at' := fun (n : Nat) => ((keyGet nodes n).map fun r => r.get c).getD ⟨none, 0⟩
    let covered :=
      ∃ z : Fin 4,
        let zone := (set.zones.get c).get z
        zone.enabled = true ∧ set.body.getLsbD zone.cond.val ≠ zone.whenClear ∧
        zone.i0 ≤ i ∧ i ≤ zone.i1 ∧ zone.j0 ≤ j ∧ j ≤ zone.j1
    (contribution nodes set cut x y c = some ⟨c, w, u, v, k⟩ ↔
      set.cams.get c = .taken k ∧ cut.get c = false ∧ ¬ covered ∧
      (∃ q00 q10 q01 q11 : Int × Int,
        (at' (46 * j + i)).coord = some q00 ∧ (at' (46 * j + i + 1)).coord = some q10 ∧
        (at' (46 * j + i + 46)).coord = some q01 ∧ (at' (46 * j + i + 47)).coord = some q11 ∧
        u = mean q00.1 q10.1 q01.1 q11.1 ∧ v = mean q00.2 q10.2 q01.2 q11.2) ∧
      (w : Int) = mean (at' (46 * j + i)).weight (at' (46 * j + i + 1)).weight (at' (46 * j + i + 46)).weight
        (at' (46 * j + i + 47)).weight ∧
      (0 ≤ u ∧ u ≤ 64 * ((k.width : Int) - 1)) ∧ (0 ≤ v ∧ v ≤ 64 * ((k.height : Int) - 1)) ∧ 0 < w) ∧
    ∀ lo hi a b d e : Int, lo ≤ a → a ≤ hi → lo ≤ b → b ≤ hi → lo ≤ d → d ≤ hi → lo ≤ e → e ≤ hi →
      lo ≤ mean a b d e ∧ mean a b d e ≤ hi

/-- R12, R13, R14, R52: the sample at a valid coordinate is, channel by channel, the exactly rounded mean of the four taps under
the tap factors, with a tap beyond the last column or line clamped to it, luma from the tap's own pixel and chroma from
its pair, where line t of the slot holds Cb, Y, Cr, Y of each pair in turn; at a whole source pixel it is that pixel. Where
the slot lies in the frame memory is the model's choice (log entry 5). -/
def Obligations.SampleOfTaps : Prop :=
  ∀ (mem : List Host.Cell) (c : Camera) (slot : Fin 3) (u v : Int) (w h : Nat),
    0 ≤ u → u ≤ 64 * ((w : Int) - 1) → 0 ≤ v → v ≤ 64 * ((h : Int) - 1) →
    let iu := u.toNat / 64
    let fu := u.toNat % 64
    let iv := v.toNat / 64
    let fv := v.toNat % 64
    let row := fun (l : Nat) => (c.val * 3 + slot.val) * 4915200 + l * 3840
    let luma := fun (p l : Nat) => (memRead mem (row l + 2 * p + 1)).toNat
    let blue := fun (p l : Nat) => (memRead mem (row l + 4 * (p / 2))).toNat
    let red := fun (p l : Nat) => (memRead mem (row l + 4 * (p / 2) + 2)).toNat
    let mean := fun (f : Nat → Nat → Nat) =>
      ((64 - fu) * (64 - fv) * f iu iv + fu * (64 - fv) * f (min (iu + 1) (w - 1)) iv +
        (64 - fu) * fv * f iu (min (iv + 1) (h - 1)) + fu * fv * f (min (iu + 1) (w - 1)) (min (iv + 1) (h - 1)) +
        2048) / 4096
    (iu < w ∧ iv < h ∧ (iu + 1 = w → fu = 0) ∧ (iv + 1 = h → fv = 0)) ∧
    (sampleAt mem c slot u v w h).y.toNat = mean luma ∧ (sampleAt mem c slot u v w h).cb.toNat = mean blue ∧
    (sampleAt mem c slot u v w h).cr.toNat = mean red ∧
    (fu = 0 → fv = 0 →
      (sampleAt mem c slot u v w h).y.toNat = luma iu iv ∧ (sampleAt mem c slot u v w h).cb.toNat = blue iu iv ∧
      (sampleAt mem c slot u v w h).cr.toNat = red iu iv)

/-- R16, R18, R20: Stage F applies the gain and saturates at 255, and a gain of 256 leaves the luma; Stage G gives each
channel the weighted mean rounded with half the weight sum, which no width truncates, and one camera alone comes out
unchanged; Stage H keeps the two lumas of each pair and means its chroma half up. A weight sum of 0 gives the fill
colour. -/
def Obligations.BlendAndPack : Prop :=
  (∀ (y : Byte) (g : Nat), gained y g = min 255 ((y.toNat * g + 128) / 256) ∧ gained y g ≤ 255 ∧
    gained y 256 = y.toNat) ∧
  (∀ (fill : Yuv) (ms : List Member), (∀ m ∈ ms, m.yg ≤ 255 ∧ m.cb ≤ 255 ∧ m.cr ≤ 255) →
    let total := (ms.map Member.weight).sum
    let mean := fun (f : Member → Nat) => ((ms.map fun m => m.weight * f m).sum + total / 2) / total
    (0 < total →
      (blend fill ms).y.toNat = mean Member.yg ∧ (blend fill ms).cb.toNat = mean Member.cb ∧
      (blend fill ms).cr.toNat = mean Member.cr) ∧
    (total = 0 → blend fill ms = fill) ∧
    ∀ m, ms = [m] → 0 < m.weight →
      (blend fill ms).y.toNat = m.yg ∧ (blend fill ms).cb.toNat = m.cb ∧ (blend fill ms).cr.toNat = m.cr) ∧
  ∀ (l : List Yuv) (m : Nat) (a b : Yuv), l[2 * m]? = some a → l[2 * m + 1]? = some b →
    (packLine l).length = l.length / 2 ∧
    ∃ q, (packLine l)[m]? = some q ∧ q.y0 = a.y ∧ q.y1 = b.y ∧ q.cb.toNat = (a.cb.toNat + b.cb.toNat + 1) / 2 ∧
      q.cr.toNat = (a.cr.toNat + b.cr.toNat + 1) / 2

/-- R16, R17, R18, R19, R22, R23, R24, R133, R134: how a line is made. The engine computes the next pixel of its line once
the sample of every contributing camera is there, and waits while one is missing; that it computes such a pixel at once is
the model's reading (log entry 18). The pixel is the rounded weighted mean of the gained samples of exactly the
contributing set, or the fill colour where nothing contributes; the line accumulators gain one in the coverage of each
contributing camera and, for each seam both of whose cameras contribute, one in N and the two gained lumas in Sa and Sb; a
fill pixel adds nothing. When all 720 pixels are computed, the line enters the FIFO with its number and its statistics
enter the frame totals; the engine begins the next line, with no pixel and with clear accumulators, or goes to FULL where
the FIFO then holds four, or to FINISHED after line 959. -/
def Obligations.LineCompletes : Prop :=
  (∀ (s : State) (t : Stamp), s.ce.state = .composing → s.ce.pixels.length = 720 → s.op.fifo.length < 4 →
    s.ce.line ≤ 959 →
    let totals : Totals :=
      ⟨.ofFn fun k =>
          ⟨(s.ce.totals.seams.get k).n + (s.ce.acc.seams.get k).n,
            (s.ce.totals.seams.get k).sa + (s.ce.acc.seams.get k).sa,
            (s.ce.totals.seams.get k).sb + (s.ce.acc.seams.get k).sb⟩,
        .ofFn fun c => s.ce.totals.coverage.get c + s.ce.acc.coverage.get c⟩
    let cleared := { s.ce with pixels := [], samples := [], acc := .zero, totals := totals }
    let left := fun (e : CE) =>
      { s with
        timebase := t, ce := e, op := { s.op with fifo := s.op.fifo ++ [(s.ce.line, packLine s.ce.pixels)] } }
    (s.ce.line = 959 → exec (.lineComplete t) s = .next (left { cleared with state := .finished })) ∧
    (s.ce.line < 959 → s.op.fifo.length = 3 →
      exec (.lineComplete t) s = .next (left { cleared with state := .full, line := s.ce.line + 1 })) ∧
    (s.ce.line < 959 → s.op.fifo.length < 3 →
      exec (.lineComplete t) s = .next
        (left (CE.settle s.nodes 720 { cleared with state := .composing, line := s.ce.line + 1 })))) ∧
  ∀ (nodes : List (Nat × NodeRecord)) (set : CompSet) (ce : CE), ce.set = some set → ce.state = .composing →
    ce.pixels.length < 720 →
    let share := fun (c : Camera) =>
      if set.view.isSome then contribution nodes set ce.cut ce.pixels.length ce.line c else none
    let sample := fun (c : Camera) => (ce.samples.find? fun e => e.1 == c).map Prod.snd
    (∀ c k, share c = some k → sample c = none → ∀ n, CE.settle nodes n ce = ce) ∧
    ∀ y : Quad Yuv, (∀ c k, share c = some k → sample c = some (y.get c)) →
      let weight := fun (c : Camera) => ((share c).map Contribution.weight).getD 0
      let total := weight 0 + weight 1 + weight 2 + weight 3
      let yg := fun (c : Camera) => min 255 (((y.get c).y.toNat * set.gains.get c + 128) / 256)
      let mean := fun (f : Camera → Nat) =>
        (weight 0 * f 0 + weight 1 * f 1 + weight 2 * f 2 + weight 3 * f 3 + total / 2) / total
      ∃ (pixel : Yuv) (acc : Totals),
        (∀ n, CE.settle nodes (n + 1) ce =
          CE.settle nodes n { ce with pixels := ce.pixels ++ [pixel], samples := [], acc := acc }) ∧
        (total = 0 → pixel = set.fill ∧ acc = ce.acc) ∧
        (0 < total →
          pixel.y.toNat = mean yg ∧ pixel.cb.toNat = mean (fun c => (y.get c).cb.toNat) ∧
          pixel.cr.toNat = mean (fun c => (y.get c).cr.toNat)) ∧
        (∀ k : Fin 4, acc.seams.get k =
          if (share k).isSome ∧ (share (k + 1)).isSome then
            ⟨(ce.acc.seams.get k).n + 1, (ce.acc.seams.get k).sa + yg k, (ce.acc.seams.get k).sb + yg (k + 1)⟩
          else ce.acc.seams.get k) ∧
        ∀ c : Camera, acc.coverage.get c = ce.acc.coverage.get c + (if (share c).isSome then 1 else 0)

/-- R22, R25, R124, R125, R126, R127, R128: line periods follow one another every 32 microseconds while the port is not idle. In a
frame, periods 4 to 963 emit lines 0 to 959: the line at the head of the FIFO leaves it, and a FULL engine begins the
next line; with no such line the period emits 720 fill pixels, counts an underrun, hands UNDERRUN with the line, and the
engine abandons its partial line. Every other period is blank. On the pins HSYNC is high for clocks 0 to 63 of each line
period, VSYNC for periods 0 and 1 of a frame; DE is high for clocks 144 to 863 of an active line, whose clock 144 + n
carries the luma of pixel n, with Cb of its pair where n is even and Cr where it is odd; elsewhere the lanes carry 16 and
128; and an idle port holds all of them low. A line that is begun computes the pixels that need no taps at once (the model's
reading, log entry 18). -/
def Obligations.LinePeriods : Prop :=
  (∀ (s : State) (t : Stamp),
    let q := s.op.counter + 1
    let begun := fun (k : Nat) =>
      CE.settle s.nodes 720
        { s.ce with state := .composing, line := k, pixels := [], samples := [], acc := Totals.zero }
    s.op.idle = false → t = s.op.origin + 32#32 * BitVec.ofNat 32 q → ¬ (s.pu.run = .running ∧ t = s.pu.compare) →
    ¬ (s.op.inFrame = true ∧ s.op.counter = 963 ∧ s.ce.state ≠ .idle) →
    (¬ (s.op.inFrame = true ∧ 4 ≤ q ∧ q ≤ 963) →
      exec (.linePeriodStart t) s = .next
        { s with timebase := t, op := { s.op with counter := q, emitting := none } }) ∧
    (s.op.inFrame = true → 4 ≤ q → q ≤ 963 →
      (∀ l rest, s.op.fifo = (q - 4, l) :: rest →
        exec (.linePeriodStart t) s = .next
          { s with
            timebase := t, op := { s.op with counter := q, fifo := rest, emitting := some l }
            ce := if s.ce.state = .full then begun s.ce.line else s.ce }) ∧
      ∀ set, s.ce.set = some set → (∀ l rest, s.op.fifo ≠ (q - 4, l) :: rest) →
        let faulted := s.handFault ⟨.output, .underrun, t, none, some (q - 4), none⟩
        exec (.linePeriodStart t) s = .next
          { faulted with
            timebase := t
            op :=
              { s.op with
                counter := q, underruns := s.op.underruns + 1
                emitting := some (List.replicate 360 ⟨set.fill.y, set.fill.y, set.fill.cb, set.fill.cr⟩) }
            ce :=
              if s.ce.state = .composing ∧ s.ce.line = q - 4 then
                if q - 4 = 959 then { s.ce with state := .finished, pixels := [], samples := [], acc := .zero }
                else begun (q - 3)
              else s.ce })) ∧
  ∀ (o : OP) (n : Nat), n < 864 →
    (o.idle = true → o.pins n = ⟨false, false, false, 0#8, 0#8⟩) ∧
    (o.idle = false →
      (o.pins n).hsync = decide (n ≤ 63) ∧
      ((o.pins n).vsync = true ↔ o.inFrame = true ∧ (o.counter = 0 ∨ o.counter = 1)) ∧
      ((o.pins n).de = true ↔ o.emitting ≠ none ∧ 144 ≤ n) ∧
      ((o.pins n).de = false → (o.pins n).y = 16#8 ∧ (o.pins n).c = 128#8) ∧
      ∀ l m p, o.emitting = some l → l[m]? = some p →
        (n = 144 + 2 * m → (o.pins n).y = p.y0 ∧ (o.pins n).c = p.cb) ∧
        (n = 144 + (2 * m + 1) → (o.pins n).y = p.y1 ∧ (o.pins n).c = p.cr))

/-- An engine that is composing a line of the frame in progress and has not finished it always waits for taps of some
camera, which the arbiter can grant it, so it never stands still by itself (R22, R23, R93). That it computes every pixel that
needs no taps at once is the model's reading (log entry 18). The view that the frame uses stays ACTIVE (R43). The premise
on the view slots is their own law. -/
def Obligations.EngineWaitsForTaps : Prop :=
  Keeps fun s => s.viewsLawful ∧ ∀ set, s.ce.set = some set →
    (∀ v, set.view = some v → (s.vs.slots.get v).state = .active) ∧
    (s.ce.state = .composing → s.ce.pixels.length < 720 → s.ce.wanted s.nodes ≠ [])

/-! ### Output frames -/

/-- R24, R42, R46, R48, R116, R118, R119, R125, R127, R153: what an output frame start does but for its takes. The pending
period comes into force and is added to the compare value; the frame number counts up; the pending selection is taken
with its notice; the pending body set comes into force; the withheld set is evaluated; the composition set copies view,
body, zones, fill, gains and withheld set; the engine composes line 0 with cut set and totals clear; the port begins line
period 0 with an empty FIFO; a STALE notice is raised for each camera found stale, in camera order; and ports, gains,
link and every slot's records stay. That the pixels of line 0 that need no taps are computed at once is the model's reading
(log entry 18). -/
def Obligations.OutputFrameStarts : Prop :=
  ∀ (s : State) (t : Stamp), s.pu.run = .running → t = s.pu.compare → s.ce.state = .idle →
    ∃ (s' : State) (set : CompSet) (nq : NQ), exec (.outputFrameStart t) s = .next s' ∧ s'.timebase = t ∧
      s'.pu =
        { s.pu with
          periodInForce := s.pu.pendingPeriod, compare := s.pu.compare + BitVec.ofNat 32 s.pu.pendingPeriod
          frameNo := s.pu.frameNo + 1 } ∧
      s'.op =
        { s.op with
          idle := false, counter := 0, origin := t, inFrame := true, fifo := [], emitting := none, underruns := 0 } ∧
      s'.cr = s.cr ∧ s'.hu = s.hu ∧ s'.lc = s.lc ∧ s'.free = s.free ∧ s'.pending = s.pending ∧
      s'.fmc = { s.fmc with rings := s'.fmc.rings } ∧
      s'.fu = { s.fu with withheld := s'.fu.withheld, withheldFrame := s.pu.frameNo + 1 } ∧
      (∀ c : Camera, s'.fu.withheld.get c = true ↔
        ∃ k : FaultKind, (s.fu.sticky.get c).get k = true ∧ s.fu.policy.get k = ⟨false, true⟩) ∧
      s'.vs = { s.vs with slots := s'.vs.slots, selection := .nonePending, body := s.vs.pendingBody } ∧
      (s.vs.selection = .nonePending → s'.vs.slots = s.vs.slots ∧ nq = s.nq) ∧
      (∀ v, s.vs.selection = .slot v →
        nq = s.nq.raise .viewTaken (.view v) v.val t ∧
        ∀ w, s'.vs.slots.get w =
          if w = v then { s.vs.slots.get w with state := .active }
          else if (s.vs.slots.get w).state = .active then { s.vs.slots.get w with state := .ready }
          else s.vs.slots.get w) ∧
      (s.vs.selection = .withdraw →
        ((∃ v, (s.vs.slots.get v).state = .active) → nq = s.nq.raise .viewTaken .part 0 t) ∧
        ((∀ v, (s.vs.slots.get v).state ≠ .active) → nq = s.nq) ∧
        ∀ w, s'.vs.slots.get w =
          if (s.vs.slots.get w).state = .active then { s.vs.slots.get w with state := .ready }
          else s.vs.slots.get w) ∧
      s'.nq =
        cameras.foldl
          (fun q c =>
            match set.cams.get c with
            | .stale _ => q.raise .stale (.cam c) 0 t
            | _ => q) nq ∧
      s'.ce.set = some set ∧ s'.ce.state = .composing ∧ s'.ce.line = 0 ∧ s'.ce.totals = .zero ∧
      (∀ c : Camera, s'.ce.cut.get c = false) ∧
      s'.ce =
        CE.settle s'.nodes 720
          { state := .composing, line := 0, set := some set, cut := .all false, pixels := [], samples := []
            acc := .zero, totals := .zero } ∧
      set.frameNo = s.pu.frameNo + 1 ∧ set.start = t ∧ set.body = s.vs.pendingBody ∧ set.zones = s.vs.zones ∧
      set.fill = s.vs.fill ∧ set.gains = s.hu.gains ∧ set.withheld = s'.fu.withheld ∧
      (∀ v, set.view = some v → (s'.vs.slots.get v).state = .active) ∧
      (set.view = none → ∀ v, (s'.vs.slots.get v).state ≠ .active) ∧
      ∀ c : Camera,
        ((s.cr.get c).qual = .disabled → set.cams.get c = .disabled) ∧
        ((s.cr.get c).qual = .noSignal ∨ (s.cr.get c).qual = .acquiring → set.cams.get c = .notQualified) ∧
        ((s.cr.get c).qual = .locked ∨ (s.cr.get c).qual = .holdover → s'.fu.withheld.get c = true →
          set.cams.get c = .withheld)

/-- R90, R102, R107, R119, R120: what an output frame start takes from the ring of one camera. A composable camera's READY
slot is the candidate, or else its HELD slot if that is neither poisoned nor released; a candidate no older than the
maximum age enters the camera set with its slot, counter, age and source size, and is HELD; in every other case the
camera is left out and its HELD slot freed, STALE with the candidate's age if there is one. READY slots not taken and
FILLING slots stay. -/
def Obligations.FrameTakes : Prop :=
  ∀ (s s' : State) (t : Stamp) (set : CompSet) (c : Camera) (d : Descriptor), s.pu.run = .running →
    t = s.pu.compare → s.ce.state = .idle → exec (.outputFrameStart t) s = .next s' → s'.ce.set = some set →
    (s.cr.get c).descriptor = some d → Ring.lawful (s.fmc.rings.get c) →
    let ring := s.fmc.rings.get c
    let composable :=
      ((s.cr.get c).qual = .locked ∨ (s.cr.get c).qual = .holdover) ∧ s'.fu.withheld.get c = false
    let freed := ring.map fun x => if x.isHeld then .free else x
    (¬ composable → (∀ k, set.cams.get c ≠ .taken k) ∧ s'.fmc.rings.get c = freed) ∧
    (composable →
      (∀ i o e n, ring.get i = .ready o e n →
        ((t - e).toNat ≤ s.pu.maxAge →
          set.cams.get c = .taken ⟨i, n, t - e, false, d.width, d.height⟩ ∧
          s'.fmc.rings.get c = freed.set i (.held o e n false false)) ∧
        (s.pu.maxAge < (t - e).toNat → set.cams.get c = .stale (some (t - e)) ∧ s'.fmc.rings.get c = freed)) ∧
      ((∀ i, (ring.get i).isReady = false) →
        (∀ i o e n, ring.get i = .held o e n false false →
          ((t - e).toNat ≤ s.pu.maxAge →
            set.cams.get c = .taken ⟨i, n, t - e, true, d.width, d.height⟩ ∧ s'.fmc.rings.get c = ring) ∧
          (s.pu.maxAge < (t - e).toNat → set.cams.get c = .stale (some (t - e)) ∧ s'.fmc.rings.get c = freed)) ∧
        ((∀ i o e n, ring.get i ≠ .held o e n false false) →
          set.cams.get c = .stale none ∧ s'.fmc.rings.get c = freed)))

/-- R26, R122, R123, R164, R165: at the frame end, 30,848 microseconds after the frame start, the gains are updated from
the frame totals, a summary joins the history, whose oldest leaves where it holds eight, the composition set is released
and the engine IDLE; in STOPPING the output stops then. -/
def Obligations.FrameEnds : Prop :=
  ∀ (s : State) (t : Stamp) (set : CompSet), s.ce.set = some set → s.ce.state = .finished → s.op.counter = 963 →
    t = set.start + 30848#32 →
    ∃ x : Summary,
      let ended :=
        { s with
          timebase := t, hu := s.hu.update set.frameNo s.ce.totals
          nq := { s.nq with history := (s.nq.history ++ [x]).drop (s.nq.history.length + 1 - 8) }
          ce := { s.ce with state := .idle, line := 0, set := none, pixels := [], samples := [], acc := .zero } }
      (s.pu.run = .running → exec (.frameEnd t) s = .next ended) ∧
      (s.pu.run = .stopping → exec (.frameEnd t) s = .next (ended.halted t)) ∧
      x.frameNo = set.frameNo ∧ x.start = set.start ∧ x.view = set.view ∧ x.body = set.body ∧
      x.underruns = s.op.underruns ∧ (∀ k : Fin 4, x.seamCounts.get k = (s.ce.totals.seams.get k).n) ∧
      ∀ c : Camera,
        let rest := (s.ce.totals.coverage.get c, set.gains.get c)
        match set.cams.get c with
        | .disabled => x.cams.get c = ⟨.disabled, none, none, false, rest.1, rest.2⟩
        | .notQualified => x.cams.get c = ⟨.notQualified, none, none, false, rest.1, rest.2⟩
        | .withheld => x.cams.get c = ⟨.withheld, none, none, false, rest.1, rest.2⟩
        | .stale age => x.cams.get c = ⟨.stale, none, age, false, rest.1, rest.2⟩
        | .taken k =>
          (s.ce.cut.get c = false →
            x.cams.get c = ⟨.composed, some k.counter, some k.age, k.repeated, rest.1, rest.2⟩) ∧
          (s.ce.cut.get c = true → x.cams.get c = ⟨.cut, some k.counter, some k.age, k.repeated, rest.1, rest.2⟩)
end

