-- ==== Sys2Proof/Laws/State.lean ====
section
/-! SUPPORT. What each named update of the state does to each field: one lemma per field per update, true by `rfl`. -/
namespace Sys2Proof.Machine

@[simp] theorem State.setTimebase_timebase (s : State) (x : Stamp) : (s.setTimebase x).timebase = x := rfl
@[simp] theorem State.setTimebase_cr (s : State) (x : Stamp) : (s.setTimebase x).cr = s.cr := rfl
@[simp] theorem State.setTimebase_fmc (s : State) (x : Stamp) : (s.setTimebase x).fmc = s.fmc := rfl
@[simp] theorem State.setTimebase_vs (s : State) (x : Stamp) : (s.setTimebase x).vs = s.vs := rfl
@[simp] theorem State.setTimebase_pu (s : State) (x : Stamp) : (s.setTimebase x).pu = s.pu := rfl
@[simp] theorem State.setTimebase_ce (s : State) (x : Stamp) : (s.setTimebase x).ce = s.ce := rfl
@[simp] theorem State.setTimebase_op (s : State) (x : Stamp) : (s.setTimebase x).op = s.op := rfl
@[simp] theorem State.setTimebase_hu (s : State) (x : Stamp) : (s.setTimebase x).hu = s.hu := rfl
@[simp] theorem State.setTimebase_fu (s : State) (x : Stamp) : (s.setTimebase x).fu = s.fu := rfl
@[simp] theorem State.setTimebase_nq (s : State) (x : Stamp) : (s.setTimebase x).nq = s.nq := rfl
@[simp] theorem State.setTimebase_lc (s : State) (x : Stamp) : (s.setTimebase x).lc = s.lc := rfl
@[simp] theorem State.setTimebase_free (s : State) (x : Stamp) : (s.setTimebase x).free = s.free := rfl
@[simp] theorem State.setTimebase_pending (s : State) (x : Stamp) : (s.setTimebase x).pending = s.pending := rfl

@[simp] theorem State.setReceivers_timebase (s : State) (x : Quad Receiver) : (s.setReceivers x).timebase = s.timebase := rfl
@[simp] theorem State.setReceivers_cr (s : State) (x : Quad Receiver) : (s.setReceivers x).cr = x := rfl
@[simp] theorem State.setReceivers_fmc (s : State) (x : Quad Receiver) : (s.setReceivers x).fmc = s.fmc := rfl
@[simp] theorem State.setReceivers_vs (s : State) (x : Quad Receiver) : (s.setReceivers x).vs = s.vs := rfl
@[simp] theorem State.setReceivers_pu (s : State) (x : Quad Receiver) : (s.setReceivers x).pu = s.pu := rfl
@[simp] theorem State.setReceivers_ce (s : State) (x : Quad Receiver) : (s.setReceivers x).ce = s.ce := rfl
@[simp] theorem State.setReceivers_op (s : State) (x : Quad Receiver) : (s.setReceivers x).op = s.op := rfl
@[simp] theorem State.setReceivers_hu (s : State) (x : Quad Receiver) : (s.setReceivers x).hu = s.hu := rfl
@[simp] theorem State.setReceivers_fu (s : State) (x : Quad Receiver) : (s.setReceivers x).fu = s.fu := rfl
@[simp] theorem State.setReceivers_nq (s : State) (x : Quad Receiver) : (s.setReceivers x).nq = s.nq := rfl
@[simp] theorem State.setReceivers_lc (s : State) (x : Quad Receiver) : (s.setReceivers x).lc = s.lc := rfl
@[simp] theorem State.setReceivers_free (s : State) (x : Quad Receiver) : (s.setReceivers x).free = s.free := rfl
@[simp] theorem State.setReceivers_pending (s : State) (x : Quad Receiver) : (s.setReceivers x).pending = s.pending := rfl

@[simp] theorem State.setFmc_timebase (s : State) (x : FMC) : (s.setFmc x).timebase = s.timebase := rfl
@[simp] theorem State.setFmc_cr (s : State) (x : FMC) : (s.setFmc x).cr = s.cr := rfl
@[simp] theorem State.setFmc_fmc (s : State) (x : FMC) : (s.setFmc x).fmc = x := rfl
@[simp] theorem State.setFmc_vs (s : State) (x : FMC) : (s.setFmc x).vs = s.vs := rfl
@[simp] theorem State.setFmc_pu (s : State) (x : FMC) : (s.setFmc x).pu = s.pu := rfl
@[simp] theorem State.setFmc_ce (s : State) (x : FMC) : (s.setFmc x).ce = s.ce := rfl
@[simp] theorem State.setFmc_op (s : State) (x : FMC) : (s.setFmc x).op = s.op := rfl
@[simp] theorem State.setFmc_hu (s : State) (x : FMC) : (s.setFmc x).hu = s.hu := rfl
@[simp] theorem State.setFmc_fu (s : State) (x : FMC) : (s.setFmc x).fu = s.fu := rfl
@[simp] theorem State.setFmc_nq (s : State) (x : FMC) : (s.setFmc x).nq = s.nq := rfl
@[simp] theorem State.setFmc_lc (s : State) (x : FMC) : (s.setFmc x).lc = s.lc := rfl
@[simp] theorem State.setFmc_free (s : State) (x : FMC) : (s.setFmc x).free = s.free := rfl
@[simp] theorem State.setFmc_pending (s : State) (x : FMC) : (s.setFmc x).pending = s.pending := rfl

@[simp] theorem State.setVs_timebase (s : State) (x : VS) : (s.setVs x).timebase = s.timebase := rfl
@[simp] theorem State.setVs_cr (s : State) (x : VS) : (s.setVs x).cr = s.cr := rfl
@[simp] theorem State.setVs_fmc (s : State) (x : VS) : (s.setVs x).fmc = s.fmc := rfl
@[simp] theorem State.setVs_vs (s : State) (x : VS) : (s.setVs x).vs = x := rfl
@[simp] theorem State.setVs_pu (s : State) (x : VS) : (s.setVs x).pu = s.pu := rfl
@[simp] theorem State.setVs_ce (s : State) (x : VS) : (s.setVs x).ce = s.ce := rfl
@[simp] theorem State.setVs_op (s : State) (x : VS) : (s.setVs x).op = s.op := rfl
@[simp] theorem State.setVs_hu (s : State) (x : VS) : (s.setVs x).hu = s.hu := rfl
@[simp] theorem State.setVs_fu (s : State) (x : VS) : (s.setVs x).fu = s.fu := rfl
@[simp] theorem State.setVs_nq (s : State) (x : VS) : (s.setVs x).nq = s.nq := rfl
@[simp] theorem State.setVs_lc (s : State) (x : VS) : (s.setVs x).lc = s.lc := rfl
@[simp] theorem State.setVs_free (s : State) (x : VS) : (s.setVs x).free = s.free := rfl
@[simp] theorem State.setVs_pending (s : State) (x : VS) : (s.setVs x).pending = s.pending := rfl

@[simp] theorem State.setPu_timebase (s : State) (x : PU) : (s.setPu x).timebase = s.timebase := rfl
@[simp] theorem State.setPu_cr (s : State) (x : PU) : (s.setPu x).cr = s.cr := rfl
@[simp] theorem State.setPu_fmc (s : State) (x : PU) : (s.setPu x).fmc = s.fmc := rfl
@[simp] theorem State.setPu_vs (s : State) (x : PU) : (s.setPu x).vs = s.vs := rfl
@[simp] theorem State.setPu_pu (s : State) (x : PU) : (s.setPu x).pu = x := rfl
@[simp] theorem State.setPu_ce (s : State) (x : PU) : (s.setPu x).ce = s.ce := rfl
@[simp] theorem State.setPu_op (s : State) (x : PU) : (s.setPu x).op = s.op := rfl
@[simp] theorem State.setPu_hu (s : State) (x : PU) : (s.setPu x).hu = s.hu := rfl
@[simp] theorem State.setPu_fu (s : State) (x : PU) : (s.setPu x).fu = s.fu := rfl
@[simp] theorem State.setPu_nq (s : State) (x : PU) : (s.setPu x).nq = s.nq := rfl
@[simp] theorem State.setPu_lc (s : State) (x : PU) : (s.setPu x).lc = s.lc := rfl
@[simp] theorem State.setPu_free (s : State) (x : PU) : (s.setPu x).free = s.free := rfl
@[simp] theorem State.setPu_pending (s : State) (x : PU) : (s.setPu x).pending = s.pending := rfl

@[simp] theorem State.setCe_timebase (s : State) (x : CE) : (s.setCe x).timebase = s.timebase := rfl
@[simp] theorem State.setCe_cr (s : State) (x : CE) : (s.setCe x).cr = s.cr := rfl
@[simp] theorem State.setCe_fmc (s : State) (x : CE) : (s.setCe x).fmc = s.fmc := rfl
@[simp] theorem State.setCe_vs (s : State) (x : CE) : (s.setCe x).vs = s.vs := rfl
@[simp] theorem State.setCe_pu (s : State) (x : CE) : (s.setCe x).pu = s.pu := rfl
@[simp] theorem State.setCe_ce (s : State) (x : CE) : (s.setCe x).ce = x := rfl
@[simp] theorem State.setCe_op (s : State) (x : CE) : (s.setCe x).op = s.op := rfl
@[simp] theorem State.setCe_hu (s : State) (x : CE) : (s.setCe x).hu = s.hu := rfl
@[simp] theorem State.setCe_fu (s : State) (x : CE) : (s.setCe x).fu = s.fu := rfl
@[simp] theorem State.setCe_nq (s : State) (x : CE) : (s.setCe x).nq = s.nq := rfl
@[simp] theorem State.setCe_lc (s : State) (x : CE) : (s.setCe x).lc = s.lc := rfl
@[simp] theorem State.setCe_free (s : State) (x : CE) : (s.setCe x).free = s.free := rfl
@[simp] theorem State.setCe_pending (s : State) (x : CE) : (s.setCe x).pending = s.pending := rfl

@[simp] theorem State.setOp_timebase (s : State) (x : OP) : (s.setOp x).timebase = s.timebase := rfl
@[simp] theorem State.setOp_cr (s : State) (x : OP) : (s.setOp x).cr = s.cr := rfl
@[simp] theorem State.setOp_fmc (s : State) (x : OP) : (s.setOp x).fmc = s.fmc := rfl
@[simp] theorem State.setOp_vs (s : State) (x : OP) : (s.setOp x).vs = s.vs := rfl
@[simp] theorem State.setOp_pu (s : State) (x : OP) : (s.setOp x).pu = s.pu := rfl
@[simp] theorem State.setOp_ce (s : State) (x : OP) : (s.setOp x).ce = s.ce := rfl
@[simp] theorem State.setOp_op (s : State) (x : OP) : (s.setOp x).op = x := rfl
@[simp] theorem State.setOp_hu (s : State) (x : OP) : (s.setOp x).hu = s.hu := rfl
@[simp] theorem State.setOp_fu (s : State) (x : OP) : (s.setOp x).fu = s.fu := rfl
@[simp] theorem State.setOp_nq (s : State) (x : OP) : (s.setOp x).nq = s.nq := rfl
@[simp] theorem State.setOp_lc (s : State) (x : OP) : (s.setOp x).lc = s.lc := rfl
@[simp] theorem State.setOp_free (s : State) (x : OP) : (s.setOp x).free = s.free := rfl
@[simp] theorem State.setOp_pending (s : State) (x : OP) : (s.setOp x).pending = s.pending := rfl

@[simp] theorem State.setHu_timebase (s : State) (x : HU) : (s.setHu x).timebase = s.timebase := rfl
@[simp] theorem State.setHu_cr (s : State) (x : HU) : (s.setHu x).cr = s.cr := rfl
@[simp] theorem State.setHu_fmc (s : State) (x : HU) : (s.setHu x).fmc = s.fmc := rfl
@[simp] theorem State.setHu_vs (s : State) (x : HU) : (s.setHu x).vs = s.vs := rfl
@[simp] theorem State.setHu_pu (s : State) (x : HU) : (s.setHu x).pu = s.pu := rfl
@[simp] theorem State.setHu_ce (s : State) (x : HU) : (s.setHu x).ce = s.ce := rfl
@[simp] theorem State.setHu_op (s : State) (x : HU) : (s.setHu x).op = s.op := rfl
@[simp] theorem State.setHu_hu (s : State) (x : HU) : (s.setHu x).hu = x := rfl
@[simp] theorem State.setHu_fu (s : State) (x : HU) : (s.setHu x).fu = s.fu := rfl
@[simp] theorem State.setHu_nq (s : State) (x : HU) : (s.setHu x).nq = s.nq := rfl
@[simp] theorem State.setHu_lc (s : State) (x : HU) : (s.setHu x).lc = s.lc := rfl
@[simp] theorem State.setHu_free (s : State) (x : HU) : (s.setHu x).free = s.free := rfl
@[simp] theorem State.setHu_pending (s : State) (x : HU) : (s.setHu x).pending = s.pending := rfl

@[simp] theorem State.setFu_timebase (s : State) (x : FU) : (s.setFu x).timebase = s.timebase := rfl
@[simp] theorem State.setFu_cr (s : State) (x : FU) : (s.setFu x).cr = s.cr := rfl
@[simp] theorem State.setFu_fmc (s : State) (x : FU) : (s.setFu x).fmc = s.fmc := rfl
@[simp] theorem State.setFu_vs (s : State) (x : FU) : (s.setFu x).vs = s.vs := rfl
@[simp] theorem State.setFu_pu (s : State) (x : FU) : (s.setFu x).pu = s.pu := rfl
@[simp] theorem State.setFu_ce (s : State) (x : FU) : (s.setFu x).ce = s.ce := rfl
@[simp] theorem State.setFu_op (s : State) (x : FU) : (s.setFu x).op = s.op := rfl
@[simp] theorem State.setFu_hu (s : State) (x : FU) : (s.setFu x).hu = s.hu := rfl
@[simp] theorem State.setFu_fu (s : State) (x : FU) : (s.setFu x).fu = x := rfl
@[simp] theorem State.setFu_nq (s : State) (x : FU) : (s.setFu x).nq = s.nq := rfl
@[simp] theorem State.setFu_lc (s : State) (x : FU) : (s.setFu x).lc = s.lc := rfl
@[simp] theorem State.setFu_free (s : State) (x : FU) : (s.setFu x).free = s.free := rfl
@[simp] theorem State.setFu_pending (s : State) (x : FU) : (s.setFu x).pending = s.pending := rfl

@[simp] theorem State.setNq_timebase (s : State) (x : NQ) : (s.setNq x).timebase = s.timebase := rfl
@[simp] theorem State.setNq_cr (s : State) (x : NQ) : (s.setNq x).cr = s.cr := rfl
@[simp] theorem State.setNq_fmc (s : State) (x : NQ) : (s.setNq x).fmc = s.fmc := rfl
@[simp] theorem State.setNq_vs (s : State) (x : NQ) : (s.setNq x).vs = s.vs := rfl
@[simp] theorem State.setNq_pu (s : State) (x : NQ) : (s.setNq x).pu = s.pu := rfl
@[simp] theorem State.setNq_ce (s : State) (x : NQ) : (s.setNq x).ce = s.ce := rfl
@[simp] theorem State.setNq_op (s : State) (x : NQ) : (s.setNq x).op = s.op := rfl
@[simp] theorem State.setNq_hu (s : State) (x : NQ) : (s.setNq x).hu = s.hu := rfl
@[simp] theorem State.setNq_fu (s : State) (x : NQ) : (s.setNq x).fu = s.fu := rfl
@[simp] theorem State.setNq_nq (s : State) (x : NQ) : (s.setNq x).nq = x := rfl
@[simp] theorem State.setNq_lc (s : State) (x : NQ) : (s.setNq x).lc = s.lc := rfl
@[simp] theorem State.setNq_free (s : State) (x : NQ) : (s.setNq x).free = s.free := rfl
@[simp] theorem State.setNq_pending (s : State) (x : NQ) : (s.setNq x).pending = s.pending := rfl

@[simp] theorem State.setLc_timebase (s : State) (x : LC) : (s.setLc x).timebase = s.timebase := rfl
@[simp] theorem State.setLc_cr (s : State) (x : LC) : (s.setLc x).cr = s.cr := rfl
@[simp] theorem State.setLc_fmc (s : State) (x : LC) : (s.setLc x).fmc = s.fmc := rfl
@[simp] theorem State.setLc_vs (s : State) (x : LC) : (s.setLc x).vs = s.vs := rfl
@[simp] theorem State.setLc_pu (s : State) (x : LC) : (s.setLc x).pu = s.pu := rfl
@[simp] theorem State.setLc_ce (s : State) (x : LC) : (s.setLc x).ce = s.ce := rfl
@[simp] theorem State.setLc_op (s : State) (x : LC) : (s.setLc x).op = s.op := rfl
@[simp] theorem State.setLc_hu (s : State) (x : LC) : (s.setLc x).hu = s.hu := rfl
@[simp] theorem State.setLc_fu (s : State) (x : LC) : (s.setLc x).fu = s.fu := rfl
@[simp] theorem State.setLc_nq (s : State) (x : LC) : (s.setLc x).nq = s.nq := rfl
@[simp] theorem State.setLc_lc (s : State) (x : LC) : (s.setLc x).lc = x := rfl
@[simp] theorem State.setLc_free (s : State) (x : LC) : (s.setLc x).free = s.free := rfl
@[simp] theorem State.setLc_pending (s : State) (x : LC) : (s.setLc x).pending = s.pending := rfl

@[simp] theorem State.setFree_timebase (s : State) (x : Nat) : (s.setFree x).timebase = s.timebase := rfl
@[simp] theorem State.setFree_cr (s : State) (x : Nat) : (s.setFree x).cr = s.cr := rfl
@[simp] theorem State.setFree_fmc (s : State) (x : Nat) : (s.setFree x).fmc = s.fmc := rfl
@[simp] theorem State.setFree_vs (s : State) (x : Nat) : (s.setFree x).vs = s.vs := rfl
@[simp] theorem State.setFree_pu (s : State) (x : Nat) : (s.setFree x).pu = s.pu := rfl
@[simp] theorem State.setFree_ce (s : State) (x : Nat) : (s.setFree x).ce = s.ce := rfl
@[simp] theorem State.setFree_op (s : State) (x : Nat) : (s.setFree x).op = s.op := rfl
@[simp] theorem State.setFree_hu (s : State) (x : Nat) : (s.setFree x).hu = s.hu := rfl
@[simp] theorem State.setFree_fu (s : State) (x : Nat) : (s.setFree x).fu = s.fu := rfl
@[simp] theorem State.setFree_nq (s : State) (x : Nat) : (s.setFree x).nq = s.nq := rfl
@[simp] theorem State.setFree_lc (s : State) (x : Nat) : (s.setFree x).lc = s.lc := rfl
@[simp] theorem State.setFree_free (s : State) (x : Nat) : (s.setFree x).free = x := rfl
@[simp] theorem State.setFree_pending (s : State) (x : Nat) : (s.setFree x).pending = s.pending := rfl

@[simp] theorem State.setPending_timebase (s : State) (x : List Instr) : (s.setPending x).timebase = s.timebase := rfl
@[simp] theorem State.setPending_cr (s : State) (x : List Instr) : (s.setPending x).cr = s.cr := rfl
@[simp] theorem State.setPending_fmc (s : State) (x : List Instr) : (s.setPending x).fmc = s.fmc := rfl
@[simp] theorem State.setPending_vs (s : State) (x : List Instr) : (s.setPending x).vs = s.vs := rfl
@[simp] theorem State.setPending_pu (s : State) (x : List Instr) : (s.setPending x).pu = s.pu := rfl
@[simp] theorem State.setPending_ce (s : State) (x : List Instr) : (s.setPending x).ce = s.ce := rfl
@[simp] theorem State.setPending_op (s : State) (x : List Instr) : (s.setPending x).op = s.op := rfl
@[simp] theorem State.setPending_hu (s : State) (x : List Instr) : (s.setPending x).hu = s.hu := rfl
@[simp] theorem State.setPending_fu (s : State) (x : List Instr) : (s.setPending x).fu = s.fu := rfl
@[simp] theorem State.setPending_nq (s : State) (x : List Instr) : (s.setPending x).nq = s.nq := rfl
@[simp] theorem State.setPending_lc (s : State) (x : List Instr) : (s.setPending x).lc = s.lc := rfl
@[simp] theorem State.setPending_free (s : State) (x : List Instr) : (s.setPending x).free = s.free := rfl
@[simp] theorem State.setPending_pending (s : State) (x : List Instr) : (s.setPending x).pending = x := rfl

@[simp] theorem State.arrive_timebase (s : State) (t : Stamp) : (s.arrive t).timebase = t := rfl
@[simp] theorem State.arrive_cr (s : State) (t : Stamp) : (s.arrive t).cr = s.cr := rfl
@[simp] theorem State.arrive_fmc (s : State) (t : Stamp) : (s.arrive t).fmc = s.fmc := rfl
@[simp] theorem State.arrive_vs (s : State) (t : Stamp) : (s.arrive t).vs = s.vs := rfl
@[simp] theorem State.arrive_pu (s : State) (t : Stamp) : (s.arrive t).pu = s.pu := rfl
@[simp] theorem State.arrive_ce (s : State) (t : Stamp) : (s.arrive t).ce = s.ce := rfl
@[simp] theorem State.arrive_op (s : State) (t : Stamp) : (s.arrive t).op = s.op := rfl
@[simp] theorem State.arrive_hu (s : State) (t : Stamp) : (s.arrive t).hu = s.hu := rfl
@[simp] theorem State.arrive_fu (s : State) (t : Stamp) : (s.arrive t).fu = s.fu := rfl
@[simp] theorem State.arrive_nq (s : State) (t : Stamp) : (s.arrive t).nq = s.nq := rfl
@[simp] theorem State.arrive_lc (s : State) (t : Stamp) : (s.arrive t).lc = s.lc := rfl
@[simp] theorem State.arrive_free (s : State) (t : Stamp) : (s.arrive t).free = s.free := rfl
@[simp] theorem State.arrive_pending (s : State) (t : Stamp) : (s.arrive t).pending = s.pending := rfl

@[simp] theorem State.setReceiver_timebase (s : State) (c : Camera) (r : Receiver) : (s.setReceiver c r).timebase = s.timebase := rfl
@[simp] theorem State.setReceiver_cr (s : State) (c : Camera) (r : Receiver) : (s.setReceiver c r).cr = s.cr.set c r := rfl
@[simp] theorem State.setReceiver_fmc (s : State) (c : Camera) (r : Receiver) : (s.setReceiver c r).fmc = s.fmc := rfl
@[simp] theorem State.setReceiver_vs (s : State) (c : Camera) (r : Receiver) : (s.setReceiver c r).vs = s.vs := rfl
@[simp] theorem State.setReceiver_pu (s : State) (c : Camera) (r : Receiver) : (s.setReceiver c r).pu = s.pu := rfl
@[simp] theorem State.setReceiver_ce (s : State) (c : Camera) (r : Receiver) : (s.setReceiver c r).ce = s.ce := rfl
@[simp] theorem State.setReceiver_op (s : State) (c : Camera) (r : Receiver) : (s.setReceiver c r).op = s.op := rfl
@[simp] theorem State.setReceiver_hu (s : State) (c : Camera) (r : Receiver) : (s.setReceiver c r).hu = s.hu := rfl
@[simp] theorem State.setReceiver_fu (s : State) (c : Camera) (r : Receiver) : (s.setReceiver c r).fu = s.fu := rfl
@[simp] theorem State.setReceiver_nq (s : State) (c : Camera) (r : Receiver) : (s.setReceiver c r).nq = s.nq := rfl
@[simp] theorem State.setReceiver_lc (s : State) (c : Camera) (r : Receiver) : (s.setReceiver c r).lc = s.lc := rfl
@[simp] theorem State.setReceiver_free (s : State) (c : Camera) (r : Receiver) : (s.setReceiver c r).free = s.free := rfl
@[simp] theorem State.setReceiver_pending (s : State) (c : Camera) (r : Receiver) : (s.setReceiver c r).pending = s.pending := rfl

@[simp] theorem State.setRing_timebase (s : State) (c : Camera) (r : Ring) : (s.setRing c r).timebase = s.timebase := rfl
@[simp] theorem State.setRing_cr (s : State) (c : Camera) (r : Ring) : (s.setRing c r).cr = s.cr := rfl
@[simp] theorem State.setRing_fmc (s : State) (c : Camera) (r : Ring) : (s.setRing c r).fmc = { s.fmc with rings := s.fmc.rings.set c r } := rfl
@[simp] theorem State.setRing_vs (s : State) (c : Camera) (r : Ring) : (s.setRing c r).vs = s.vs := rfl
@[simp] theorem State.setRing_pu (s : State) (c : Camera) (r : Ring) : (s.setRing c r).pu = s.pu := rfl
@[simp] theorem State.setRing_ce (s : State) (c : Camera) (r : Ring) : (s.setRing c r).ce = s.ce := rfl
@[simp] theorem State.setRing_op (s : State) (c : Camera) (r : Ring) : (s.setRing c r).op = s.op := rfl
@[simp] theorem State.setRing_hu (s : State) (c : Camera) (r : Ring) : (s.setRing c r).hu = s.hu := rfl
@[simp] theorem State.setRing_fu (s : State) (c : Camera) (r : Ring) : (s.setRing c r).fu = s.fu := rfl
@[simp] theorem State.setRing_nq (s : State) (c : Camera) (r : Ring) : (s.setRing c r).nq = s.nq := rfl
@[simp] theorem State.setRing_lc (s : State) (c : Camera) (r : Ring) : (s.setRing c r).lc = s.lc := rfl
@[simp] theorem State.setRing_free (s : State) (c : Camera) (r : Ring) : (s.setRing c r).free = s.free := rfl
@[simp] theorem State.setRing_pending (s : State) (c : Camera) (r : Ring) : (s.setRing c r).pending = s.pending := rfl

@[simp] theorem State.raise_timebase (s : State) (k : NoticeKind) (src : NoticeSource) (d : Nat) (t : Stamp) :
    (s.raise k src d t).timebase = s.timebase := rfl
@[simp] theorem State.raise_cr (s : State) (k : NoticeKind) (src : NoticeSource) (d : Nat) (t : Stamp) :
    (s.raise k src d t).cr = s.cr := rfl
@[simp] theorem State.raise_fmc (s : State) (k : NoticeKind) (src : NoticeSource) (d : Nat) (t : Stamp) :
    (s.raise k src d t).fmc = s.fmc := rfl
@[simp] theorem State.raise_vs (s : State) (k : NoticeKind) (src : NoticeSource) (d : Nat) (t : Stamp) :
    (s.raise k src d t).vs = s.vs := rfl
@[simp] theorem State.raise_pu (s : State) (k : NoticeKind) (src : NoticeSource) (d : Nat) (t : Stamp) :
    (s.raise k src d t).pu = s.pu := rfl
@[simp] theorem State.raise_ce (s : State) (k : NoticeKind) (src : NoticeSource) (d : Nat) (t : Stamp) :
    (s.raise k src d t).ce = s.ce := rfl
@[simp] theorem State.raise_op (s : State) (k : NoticeKind) (src : NoticeSource) (d : Nat) (t : Stamp) :
    (s.raise k src d t).op = s.op := rfl
@[simp] theorem State.raise_hu (s : State) (k : NoticeKind) (src : NoticeSource) (d : Nat) (t : Stamp) :
    (s.raise k src d t).hu = s.hu := rfl
@[simp] theorem State.raise_fu (s : State) (k : NoticeKind) (src : NoticeSource) (d : Nat) (t : Stamp) :
    (s.raise k src d t).fu = s.fu := rfl
@[simp] theorem State.raise_nq (s : State) (k : NoticeKind) (src : NoticeSource) (d : Nat) (t : Stamp) :
    (s.raise k src d t).nq = s.nq.raise k src d t := rfl
@[simp] theorem State.raise_lc (s : State) (k : NoticeKind) (src : NoticeSource) (d : Nat) (t : Stamp) :
    (s.raise k src d t).lc = s.lc := rfl
@[simp] theorem State.raise_free (s : State) (k : NoticeKind) (src : NoticeSource) (d : Nat) (t : Stamp) :
    (s.raise k src d t).free = s.free := rfl
@[simp] theorem State.raise_pending (s : State) (k : NoticeKind) (src : NoticeSource) (d : Nat) (t : Stamp) :
    (s.raise k src d t).pending = s.pending := rfl

@[simp] theorem State.tick_timebase (s : State) : s.tick.timebase = s.timebase + 1 := rfl
@[simp] theorem State.tick_cr (s : State) : s.tick.cr = s.cr := rfl
@[simp] theorem State.tick_fmc (s : State) : s.tick.fmc = s.fmc := rfl
@[simp] theorem State.tick_vs (s : State) : s.tick.vs = s.vs := rfl
@[simp] theorem State.tick_pu (s : State) : s.tick.pu = s.pu := rfl
@[simp] theorem State.tick_ce (s : State) : s.tick.ce = s.ce := rfl
@[simp] theorem State.tick_op (s : State) : s.tick.op = s.op := rfl
@[simp] theorem State.tick_hu (s : State) : s.tick.hu = s.hu := rfl
@[simp] theorem State.tick_fu (s : State) : s.tick.fu = s.fu := rfl
@[simp] theorem State.tick_nq (s : State) : s.tick.nq = s.nq := rfl
@[simp] theorem State.tick_lc (s : State) : s.tick.lc = s.lc := rfl
@[simp] theorem State.tick_free (s : State) : s.tick.free = s.free := rfl
@[simp] theorem State.tick_pending (s : State) : s.tick.pending = s.pending := rfl

end Sys2Proof.Machine
end

