-- ==== Sys2Proof/Laws/Compose.lean ====
section
/-! SUPPORT. The laws of the composition engine: settling computes pixels and touches nothing else (R22, R23, R118). -/
namespace Sys2Proof.Machine

/-- What one pixel's computation does: one pixel more, its samples used, its statistics added, all else kept. -/
theorem CE.compose_frame (ce : CE) (nodes : List (Nat × NodeRecord)) :
    (ce.compose nodes).state = ce.state ∧ (ce.compose nodes).line = ce.line ∧ (ce.compose nodes).set = ce.set ∧
    (ce.compose nodes).cut = ce.cut ∧ (ce.compose nodes).totals = ce.totals ∧
    (ce.set.isSome → (ce.compose nodes).pixels.length = ce.pixels.length + 1) := by
  unfold CE.compose
  cases h : ce.set <;> simp [h]

/-- What settling does: pixels may be added, up to 720; line, set, cut set, totals and state are kept. -/
theorem CE.settle_frame (nodes : List (Nat × NodeRecord)) (n : Nat) (ce : CE) :
    (CE.settle nodes n ce).state = ce.state ∧ (CE.settle nodes n ce).line = ce.line ∧
    (CE.settle nodes n ce).set = ce.set ∧ (CE.settle nodes n ce).cut = ce.cut ∧
    (CE.settle nodes n ce).totals = ce.totals ∧
    (ce.pixels.length ≤ 720 → (CE.settle nodes n ce).pixels.length ≤ 720) := by
  induction n generalizing ce with
  | zero => exact ⟨rfl, rfl, rfl, rfl, rfl, id⟩
  | succ n ih =>
    unfold CE.settle
    split
    · rename_i h
      obtain ⟨h1, h2, h3, h4, h5, h6⟩ := ih (ce.compose nodes)
      obtain ⟨c1, c2, c3, c4, c5, c6⟩ := ce.compose_frame nodes
      refine ⟨h1.trans c1, h2.trans c2, h3.trans c3, h4.trans c4, h5.trans c5, fun _ => h6 ?_⟩
      rw [c6 h.2.2.1]
      have := h.2.1
      simp only [Config.canvasWidth] at this
      omega
    · exact ⟨rfl, rfl, rfl, rfl, rfl, id⟩

/-- A line begun: COMPOSING at that line, at most 720 pixels; set, cut set and totals kept. -/
theorem CE.beginLine_frame (ce : CE) (nodes : List (Nat × NodeRecord)) (k : Nat) :
    (ce.beginLine nodes k).state = .composing ∧ (ce.beginLine nodes k).line = k ∧ (ce.beginLine nodes k).set = ce.set ∧
    (ce.beginLine nodes k).cut = ce.cut ∧ (ce.beginLine nodes k).totals = ce.totals ∧
    (ce.beginLine nodes k).pixels.length ≤ 720 := by
  unfold CE.beginLine
  obtain ⟨h1, h2, h3, h4, h5, h6⟩ := CE.settle_frame nodes Config.canvasWidth
    { ce with state := .composing, line := k, pixels := [], samples := [], acc := .zero }
  exact ⟨h1, h2, h3, h4, h5, h6 (by simp)⟩

/-- The engine's line events keep the composition set and the cut set; the engine is IDLE after them exactly if it was
before; the pixels stay within a line. -/
structure CE.Kept (a b : CE) : Prop where
  set : b.set = a.set
  cut : b.cut = a.cut
  idle : b.state = .idle ↔ a.state = .idle
  pixels : a.pixels.length ≤ 720 → b.pixels.length ≤ 720

theorem CE.kept_refl (a : CE) : CE.Kept a a := ⟨rfl, rfl, Iff.rfl, id⟩

theorem CE.lineLeft_kept (ce : CE) (nodes : List (Nat × NodeRecord)) : CE.Kept ce (ce.lineLeft nodes) := by
  unfold CE.lineLeft
  split
  · rename_i h
    obtain ⟨h1, -, h3, h4, -, h6⟩ := ce.beginLine_frame nodes ce.line
    exact ⟨h3, h4, by simp [h1, h], fun _ => h6⟩
  · exact CE.kept_refl ce

theorem CE.abandonLine_kept (ce : CE) (nodes : List (Nat × NodeRecord)) (k : Nat) : CE.Kept ce (ce.abandonLine nodes k) := by
  unfold CE.abandonLine
  split
  · rename_i h
    split
    · obtain ⟨h1, -, h3, h4, -, h6⟩ := ce.beginLine_frame nodes (k + 1)
      exact ⟨h3, h4, by simp [h1, h.1], fun _ => h6⟩
    · exact ⟨rfl, rfl, by simp [h.1], fun _ => by simp⟩
  · exact CE.kept_refl ce

theorem CE.afterLine_kept {ce : CE} (nodes : List (Nat × NodeRecord)) (held : Nat) (h : ce.state = .composing) :
    CE.Kept ce (ce.afterLine nodes held) := by
  unfold CE.afterLine
  simp only []
  split
  · split
    · obtain ⟨h1, -, h3, h4, -, h6⟩ :=
        CE.beginLine_frame { ce with pixels := [], samples := [], acc := .zero, totals := addTotals ce.totals ce.acc }
          nodes (ce.line + 1)
      exact ⟨h3, h4, by rw [h1, h], fun _ => h6⟩
    · exact ⟨rfl, rfl, by simp [h], fun _ => by simp⟩
  · exact ⟨rfl, rfl, by simp [h], fun _ => by simp⟩

theorem CE.deliver_kept (ce : CE) (nodes : List (Nat × NodeRecord)) (c : Camera) (n : Count) (line x : Nat) (y : Yuv) :
    CE.Kept ce (ce.deliver nodes c n line x y) := by
  unfold CE.deliver
  split
  · obtain ⟨h1, -, h3, h4, -, h6⟩ := CE.settle_frame nodes Config.canvasWidth { ce with samples := ce.samples ++ [(c, y)] }
    exact ⟨h3, h4, by simp [h1], h6⟩
  · exact CE.kept_refl ce

/-- A cut adds at most its camera to the cut set; the composition set is kept. -/
theorem CE.cutCamera_frame (ce : CE) (nodes : List (Nat × NodeRecord)) (c : Camera) (n : Count) :
    (ce.cutCamera nodes c n).set = ce.set ∧ (ce.cutCamera nodes c n).state = ce.state ∧
    (ce.cutCamera nodes c n).line = ce.line ∧
    (ce.cutCamera nodes c n).cut = (if ce.inFrame n then ce.cut.set c true else ce.cut) ∧
    (ce.pixels.length ≤ 720 → (ce.cutCamera nodes c n).pixels.length ≤ 720) := by
  unfold CE.cutCamera
  split
  · obtain ⟨h1, h2, h3, h4, -, h6⟩ := CE.settle_frame nodes Config.canvasWidth { ce with cut := ce.cut.set c true }
    exact ⟨h3, h1, h2, h4, h6⟩
  · exact ⟨rfl, rfl, rfl, rfl, id⟩

end Sys2Proof.Machine
end

