-- ==== Sys2Proof/Laws/Index.lean ====
section
/-! SUPPORT. The laws of the fixed families and of the keyed lists: reading after writing, and the canonical form. -/
namespace Sys2Proof.Machine

@[simp] theorem Quad.get_ofFn {α : Type} (f : Fin 4 → α) (i : Fin 4) : (Quad.ofFn f).get i = f i := by
  fin_cases i <;> rfl

@[simp] theorem Quad.get_all {α : Type} (a : α) (i : Fin 4) : (Quad.all a).get i = a := by
  fin_cases i <;> rfl

@[simp] theorem Quad.get_map {α β : Type} (q : Quad α) (f : α → β) (i : Fin 4) : (q.map f).get i = f (q.get i) := by
  fin_cases i <;> rfl

theorem Quad.get_set {α : Type} (q : Quad α) (i j : Fin 4) (a : α) :
    (q.set i a).get j = if j = i then a else q.get j := by
  simp [Quad.set]

@[simp] theorem Quad.get_set_same {α : Type} (q : Quad α) (i : Fin 4) (a : α) : (q.set i a).get i = a := by
  simp [Quad.get_set]

@[simp] theorem Quad.get_set_other {α : Type} (q : Quad α) {i j : Fin 4} (a : α) (h : j ≠ i) :
    (q.set i a).get j = q.get j := by
  simp [Quad.get_set, h]

theorem Quad.ext_get {α : Type} {p q : Quad α} (h : ∀ i, p.get i = q.get i) : p = q := by
  cases p; cases q
  have h0 := h 0; have h1 := h 1; have h2 := h 2; have h3 := h 3
  simp [Quad.get] at h0 h1 h2 h3
  simp [h0, h1, h2, h3]

/-- A property of every member survives replacing one member by one that has it. -/
theorem Quad.forall_set {α : Type} {q : Quad α} {i : Fin 4} {a : α} {p : α → Prop} (hq : ∀ j, p (q.get j)) (ha : p a) :
    ∀ j, p ((q.set i a).get j) := by
  intro j
  rw [Quad.get_set]
  split
  · exact ha
  · exact hq j

@[simp] theorem Trio.get_all {α : Type} (a : α) (i : Fin 3) : (Trio.all a).get i = a := by
  fin_cases i <;> rfl

@[simp] theorem Trio.get_map {α β : Type} (q : Trio α) (f : α → β) (i : Fin 3) : (q.map f).get i = f (q.get i) := by
  fin_cases i <;> rfl

theorem Trio.get_set {α : Type} (q : Trio α) (i j : Fin 3) (a : α) :
    (q.set i a).get j = if j = i then a else q.get j := by
  fin_cases i <;> fin_cases j <;> rfl

@[simp] theorem Trio.get_set_same {α : Type} (q : Trio α) (i : Fin 3) (a : α) : (q.set i a).get i = a := by
  simp [Trio.get_set]

/-- What the search of a ring answers: a slot with the property, and no lower one with it. -/
theorem Trio.find_some {α : Type} {q : Trio α} {p : α → Bool} {i : Fin 3} (h : Trio.find q p = some i) :
    p (q.get i) = true ∧ ∀ j, j < i → p (q.get j) = false := by
  have : Trio.find q p = (if p (q.get 0) then some 0 else if p (q.get 1) then some 1
      else if p (q.get 2) then some 2 else none) := by
    simp only [Trio.find, List.find?]
    cases p (q.get 0) <;> cases p (q.get 1) <;> cases p (q.get 2) <;> rfl
  rw [this] at h
  split at h <;> rename_i h0
  · cases h; exact ⟨h0, fun j hj => absurd hj (by omega)⟩
  · split at h <;> rename_i h1
    · cases h
      refine ⟨h1, fun j hj => ?_⟩
      have : j = 0 := by omega
      subst this; simpa using h0
    · split at h <;> rename_i h2
      · cases h
        refine ⟨h2, fun j hj => ?_⟩
        have : j = 0 ∨ j = 1 := by omega
        rcases this with rfl | rfl
        · simpa using h0
        · simpa using h1
      · cases h

/-- The search of a ring answers nothing exactly when no slot has the property. -/
theorem Trio.find_none {α : Type} {q : Trio α} {p : α → Bool} :
    Trio.find q p = none ↔ ∀ j, p (q.get j) = false := by
  constructor
  · intro h j
    simp only [Trio.find, List.find?_eq_none] at h
    fin_cases j <;> simp_all
  · intro h
    simp [Trio.find, List.find?_eq_none, h]

/-! ### Keyed lists -/

theorem keyGet_keyPut_same {α : Type} (l : List (Nat × α)) (k : Nat) (v : α) : keyGet (keyPut l k v) k = some v := by
  induction l with
  | nil => simp [keyPut, keyGet]
  | cons e r ih =>
    obtain ⟨a, w⟩ := e
    simp only [keyPut]
    split
    · simp [keyGet]
    · split
      · simp [keyGet]
      · simp_all [keyGet]

theorem keyGet_keyPut_other {α : Type} (l : List (Nat × α)) {k j : Nat} (v : α) (h : j ≠ k) :
    keyGet (keyPut l k v) j = keyGet l j := by
  induction l with
  | nil => simp [keyPut, keyGet, Ne.symm h]
  | cons e r ih =>
    obtain ⟨a, w⟩ := e
    simp only [keyPut]
    split
    · subst_vars; simp [keyGet, Ne.symm h]
    · split
      · simp [keyGet, Ne.symm h]
      · simp only [keyGet, ih]

theorem keyGet_keyDel_same {α : Type} (l : List (Nat × α)) (k : Nat) : keyGet (keyDel l k) k = none := by
  induction l with
  | nil => rfl
  | cons e r ih =>
    obtain ⟨a, w⟩ := e
    simp only [keyDel]
    split
    · exact ih
    · simp_all [keyGet]

theorem keyGet_keyDel_other {α : Type} (l : List (Nat × α)) {k j : Nat} (h : j ≠ k) :
    keyGet (keyDel l k) j = keyGet l j := by
  induction l with
  | nil => rfl
  | cons e r ih =>
    obtain ⟨a, w⟩ := e
    simp only [keyDel]
    split
    · rename_i hk; subst hk; rw [ih]; simp [keyGet, Ne.symm h]
    · simp only [keyGet, ih]

theorem keysAbove_keyPut {α : Type} {l : List (Nat × α)} {k j : Nat} (v : α) (h : keysAbove j l = true) (hk : j < k) :
    keysAbove j (keyPut l k v) = true := by
  induction l with
  | nil => simp [keyPut, keysAbove, hk]
  | cons e r ih =>
    obtain ⟨a, w⟩ := e
    simp only [keysAbove, List.all_cons, Bool.and_eq_true, decide_eq_true_eq] at h ih ⊢
    simp only [keyPut]
    split
    · simp [hk, h.2]
    · split
      · simp [hk, h.1, h.2]
      · simp only [List.all_cons, Bool.and_eq_true, decide_eq_true_eq]
        exact ⟨h.1, ih h.2⟩

theorem keysAbove_mono {α : Type} {l : List (Nat × α)} {j k : Nat} (h : keysAbove k l = true) (hk : j ≤ k) :
    keysAbove j l = true := by
  simp only [keysAbove, List.all_eq_true, decide_eq_true_eq] at h ⊢
  exact fun e he => lt_of_le_of_lt hk (h e he)

theorem keysRising_keyPut {α : Type} {l : List (Nat × α)} (k : Nat) (v : α) (h : keysRising l = true) :
    keysRising (keyPut l k v) = true := by
  induction l with
  | nil => rfl
  | cons e r ih =>
    obtain ⟨a, w⟩ := e
    simp only [keysRising, Bool.and_eq_true] at h
    simp only [keyPut]
    split
    · rename_i hk; subst hk; simp [keysRising, h.1, h.2]
    · split
      · rename_i hk
        simp only [keysRising, Bool.and_eq_true]
        refine ⟨?_, h.1, h.2⟩
        simp only [keysAbove, List.all_cons, Bool.and_eq_true, decide_eq_true_eq]
        exact ⟨hk, keysAbove_mono h.1 hk.le⟩
      · simp only [keysRising, Bool.and_eq_true]
        exact ⟨keysAbove_keyPut v h.1 (by omega), ih h.2⟩

theorem keyDel_sub {α : Type} {l : List (Nat × α)} {k : Nat} {e : Nat × α} (h : e ∈ keyDel l k) : e ∈ l := by
  induction l with
  | nil => cases h
  | cons x r ih =>
    obtain ⟨a, w⟩ := x
    simp only [keyDel] at h
    split at h
    · exact List.mem_cons_of_mem _ (ih h)
    · rcases List.mem_cons.mp h with h | h
      · simp [h]
      · exact List.mem_cons_of_mem _ (ih h)

theorem keysRising_keyDel {α : Type} {l : List (Nat × α)} (k : Nat) (h : keysRising l = true) :
    keysRising (keyDel l k) = true := by
  induction l with
  | nil => rfl
  | cons e r ih =>
    obtain ⟨a, w⟩ := e
    simp only [keysRising, Bool.and_eq_true] at h
    simp only [keyDel]
    split
    · exact ih h.2
    · simp only [keysRising, Bool.and_eq_true]
      refine ⟨?_, ih h.2⟩
      have ha := h.1
      simp only [keysAbove, List.all_eq_true, decide_eq_true_eq] at ha ⊢
      exact fun e he => ha e (keyDel_sub he)

/-- What stands in a list after a put: the new entry, or an old one. -/
theorem mem_keyPut {α : Type} {l : List (Nat × α)} {k : Nat} {v : α} {e : Nat × α} (h : e ∈ keyPut l k v) :
    e = (k, v) ∨ e ∈ l := by
  induction l with
  | nil => simpa [keyPut] using h
  | cons x r ih =>
    obtain ⟨a, w⟩ := x
    simp only [keyPut] at h
    split at h
    · rcases List.mem_cons.mp h with h | h
      · exact .inl h
      · exact .inr (List.mem_cons_of_mem _ h)
    · split at h
      · rcases List.mem_cons.mp h with h | h
        · exact .inl h
        · exact .inr h
      · rcases List.mem_cons.mp h with h | h
        · exact .inr (by simp [h])
        · rcases ih h with h | h
          · exact .inl h
          · exact .inr (List.mem_cons_of_mem _ h)

end Sys2Proof.Machine
end

