-- ==== Sys2Proof/Laws/Notices.lean ====
section
/-! SUPPORT. The laws of the notice queue: what raising, placing and removing can do (R160, R161, R163). -/
namespace Sys2Proof.Machine

/-- Placing adds one record and keeps the rest. -/
theorem placeNotice_perm (l : List Notice) (n : Notice) : (placeNotice l n).Perm (n :: l) := by
  induction l with
  | nil => exact .refl _
  | cons r rest ih =>
    simp only [placeNotice]
    split
    · exact (ih.cons r).trans (.swap _ _ _)
    · exact .refl _

@[simp] theorem placeNotice_length (l : List Notice) (n : Notice) : (placeNotice l n).length = l.length + 1 :=
  (placeNotice_perm l n).length_eq

/-- Removing takes records out and keeps the order of the rest. -/
theorem removeLastOf_sublist (p : Fin 4) (l : List Notice) : (removeLastOf p l).Sublist l := by
  induction l with
  | nil => exact .slnil
  | cons r rest ih =>
    simp only [removeLastOf]
    split
    · exact ih.cons_cons r
    · split
      · exact List.sublist_cons_self r rest
      · exact .refl _

/-- Of the records of a priority that is present, exactly one leaves. -/
theorem removeLastOf_length {p : Fin 4} {l : List Notice} (h : l.any (fun x => x.priority == p) = true) :
    (removeLastOf p l).length + 1 = l.length := by
  induction l with
  | nil => simp at h
  | cons r rest ih =>
    simp only [removeLastOf]
    split
    · rename_i hr; simp [ih hr]
    · rename_i hr
      have : (r.priority == p) = true := by
        simp only [List.any_cons, Bool.or_eq_true] at h
        rcases h with h | h
        · exact h
        · exact absurd h hr
      simp [this]

theorem lowestPriority_present {l : List Notice} (h : lowestPriority l < 3) :
    l.any (fun x => x.priority == lowestPriority l) = true := by
  induction l with
  | nil => simp [lowestPriority] at h
  | cons r rest ih =>
    simp only [lowestPriority] at h ⊢
    split
    · simp
    · rename_i hlt
      rw [if_neg hlt] at h
      simp [ih h]

/-- Coalescing keeps the number of records, and every record's key and priority. -/
theorem coalesce_map {β : Type} (f : Notice → β) (hf : ∀ r t, f (r.again t) = f r) (k : NoticeKind) (src : NoticeSource)
    (d : Nat) (t : Stamp) (l : List Notice) : (coalesce k src d t l).map f = l.map f := by
  induction l with
  | nil => rfl
  | cons r rest ih =>
    simp only [coalesce]
    split
    · simp [hf]
    · simp [ih]

@[simp] theorem coalesce_length (k : NoticeKind) (src : NoticeSource) (d : Nat) (t : Stamp) (l : List Notice) :
    (coalesce k src d t l).length = l.length := by
  simpa using congrArg List.length (coalesce_map (fun _ => ()) (fun _ _ => rfl) k src d t l)

/-- What a raise can do to the notice unit: nothing for a masked kind, a repeat counted, or an insertion. -/
theorem NQ.raise_cases (q : NQ) (k : NoticeKind) (src : NoticeSource) (d : Nat) (t : Stamp) :
    ((q.policy.get k).masked = true ∧ q.raise k src d t = q) ∨
    ((q.policy.get k).masked = false ∧ (q.queue.any fun r => r.hasKey k src d) = true ∧
      q.raise k src d t = { q with queue := coalesce k src d t q.queue }) ∨
    ((q.policy.get k).masked = false ∧ (q.queue.any fun r => r.hasKey k src d) = false ∧
      q.raise k src d t = q.insert ⟨k, src, d, t, t, 1, (q.policy.get k).priority⟩) := by
  unfold NQ.raise
  simp only []
  split
  · exact .inl ⟨‹_›, rfl⟩
  · rename_i hm
    split
    · exact .inr (.inl ⟨by simpa using hm, ‹_›, rfl⟩)
    · exact .inr (.inr ⟨by simpa using hm, by simp_all, rfl⟩)

/-- A raise keeps policy, threshold, polarity and history. -/
theorem NQ.raise_frame (q : NQ) (k : NoticeKind) (src : NoticeSource) (d : Nat) (t : Stamp) :
    (q.raise k src d t).policy = q.policy ∧ (q.raise k src d t).threshold = q.threshold ∧
    (q.raise k src d t).activeHigh = q.activeHigh ∧ (q.raise k src d t).history = q.history := by
  rcases q.raise_cases k src d t with ⟨_, h⟩ | ⟨_, _, h⟩ | ⟨_, _, h⟩ <;> rw [h]
  · exact ⟨rfl, rfl, rfl, rfl⟩
  · exact ⟨rfl, rfl, rfl, rfl⟩
  · unfold NQ.insert NQ.evaluate
    split
    · exact ⟨rfl, rfl, rfl, rfl⟩
    · split <;> exact ⟨rfl, rfl, rfl, rfl⟩


theorem appendSummary_length_le (h : List Summary) (x : Summary) : (appendSummary h x).length ≤ 8 := by
  unfold appendSummary Config.historyDepth
  split
  · simp; omega
  · simp; omega

end Sys2Proof.Machine
end

