-- ==== Sys2Proof/Laws/Faults.lean ====
section
/-! SUPPORT. The laws of the fault unit: handing a fault touches the fault unit and the notice unit alone (R151, R152). -/
namespace Sys2Proof.Machine

@[simp] theorem PerFault.get_ofFn {α : Type} (f : FaultKind → α) (k : FaultKind) : (PerFault.ofFn f).get k = f k := by
  cases k <;> rfl

@[simp] theorem PerFault.get_all {α : Type} (a : α) (k : FaultKind) : (PerFault.all a).get k = a := by
  cases k <;> rfl

theorem PerFault.get_set {α : Type} (p : PerFault α) (i j : FaultKind) (a : α) :
    (p.set i a).get j = if j = i then a else p.get j := by
  simp [PerFault.set]

/-- Handing a fault, once and for all: the fault unit records it, an unmasked one is raised as a notice, and nothing
else changes. -/
theorem State.handFault_eq (s : State) (r : FaultReport) :
    s.handFault r =
      (s.setFu (s.fu.record r)).setNq
        (if (s.fu.policy.get r.kind).masked then s.nq else s.nq.raise .fault r.source.notice r.kind.code r.stamp) := by
  unfold State.handFault
  simp only []
  split <;> rfl

@[simp] theorem State.handFault_timebase (s : State) (r : FaultReport) : (s.handFault r).timebase = s.timebase := by
  rw [State.handFault_eq]; rfl

@[simp] theorem State.handFault_cr (s : State) (r : FaultReport) : (s.handFault r).cr = s.cr := by
  rw [State.handFault_eq]; rfl

@[simp] theorem State.handFault_fmc (s : State) (r : FaultReport) : (s.handFault r).fmc = s.fmc := by
  rw [State.handFault_eq]; rfl

@[simp] theorem State.handFault_vs (s : State) (r : FaultReport) : (s.handFault r).vs = s.vs := by
  rw [State.handFault_eq]; rfl

@[simp] theorem State.handFault_pu (s : State) (r : FaultReport) : (s.handFault r).pu = s.pu := by
  rw [State.handFault_eq]; rfl

@[simp] theorem State.handFault_ce (s : State) (r : FaultReport) : (s.handFault r).ce = s.ce := by
  rw [State.handFault_eq]; rfl

@[simp] theorem State.handFault_op (s : State) (r : FaultReport) : (s.handFault r).op = s.op := by
  rw [State.handFault_eq]; rfl

@[simp] theorem State.handFault_hu (s : State) (r : FaultReport) : (s.handFault r).hu = s.hu := by
  rw [State.handFault_eq]; rfl

@[simp] theorem State.handFault_lc (s : State) (r : FaultReport) : (s.handFault r).lc = s.lc := by
  rw [State.handFault_eq]; rfl

@[simp] theorem State.handFault_free (s : State) (r : FaultReport) : (s.handFault r).free = s.free := by
  rw [State.handFault_eq]; rfl

@[simp] theorem State.handFault_pending (s : State) (r : FaultReport) : (s.handFault r).pending = s.pending := by
  rw [State.handFault_eq]; rfl

@[simp] theorem State.handFault_fu (s : State) (r : FaultReport) : (s.handFault r).fu = s.fu.record r := by
  rw [State.handFault_eq]; rfl

/-- A recording keeps the policy and the withheld set. -/
theorem FU.record_frame (f : FU) (r : FaultReport) :
    (f.record r).policy = f.policy ∧ (f.record r).withheld = f.withheld ∧ (f.record r).withheldFrame = f.withheldFrame := by
  unfold FU.record FU.mark
  cases r.source <;> simp only [] <;> split <;> exact ⟨rfl, rfl, rfl⟩

/-- A recording of an unmasked kind captures the fault, one of a masked kind does not. -/
theorem FU.record_first (f : FU) (r : FaultReport) :
    (f.record r).first = if (f.policy.get r.kind).masked then f.first else capture f.first r := by
  unfold FU.record FU.mark
  cases r.source <;> simp only [] <;> split <;> rfl

/-- A recording sets the mark of its source and kind, and no other. -/
theorem FU.record_marks (f : FU) (r : FaultReport) (src : FaultSource) (k : FaultKind) :
    ((f.record r).marks src).get k = ((src = r.source ∧ k = r.kind) || ((f.marks src).get k)) := by
  have key : ((f.record r).marks src) = ((f.mark r.source r.kind).marks src) := by
    unfold FU.record
    simp only []
    split
    · rfl
    · cases src <;> rfl
  rw [key]
  unfold FU.mark FU.marks
  cases hs : r.source <;> cases src <;> simp [PerFault.get_set, Quad.get_set]
  split <;> simp_all [PerFault.get_set]

end Sys2Proof.Machine
end

