-- ==== Sys2Proof/Laws/Rings.lean ====
section
/-! SUPPORT. The laws of the ring operations: each slot after each operation, and what a take can do (R97 to R106). -/
namespace Sys2Proof.Machine

@[simp] theorem SlotRecord.isFree_free : SlotRecord.isFree SlotRecord.free = true := rfl
@[simp] theorem SlotRecord.isFree_filling (o : Stamp) : SlotRecord.isFree (SlotRecord.filling o) = false := rfl
@[simp] theorem SlotRecord.isFree_ready (o c : Stamp) (n : Half) : SlotRecord.isFree (SlotRecord.ready o c n) = false := rfl
@[simp] theorem SlotRecord.isFree_held (o c : Stamp) (n : Half) (p r : Bool) : SlotRecord.isFree (SlotRecord.held o c n p r) = false := rfl
@[simp] theorem SlotRecord.isFilling_free : SlotRecord.isFilling SlotRecord.free = false := rfl
@[simp] theorem SlotRecord.isFilling_filling (o : Stamp) : SlotRecord.isFilling (SlotRecord.filling o) = true := rfl
@[simp] theorem SlotRecord.isFilling_ready (o c : Stamp) (n : Half) : SlotRecord.isFilling (SlotRecord.ready o c n) = false := rfl
@[simp] theorem SlotRecord.isFilling_held (o c : Stamp) (n : Half) (p r : Bool) : SlotRecord.isFilling (SlotRecord.held o c n p r) = false := rfl
@[simp] theorem SlotRecord.isReady_free : SlotRecord.isReady SlotRecord.free = false := rfl
@[simp] theorem SlotRecord.isReady_filling (o : Stamp) : SlotRecord.isReady (SlotRecord.filling o) = false := rfl
@[simp] theorem SlotRecord.isReady_ready (o c : Stamp) (n : Half) : SlotRecord.isReady (SlotRecord.ready o c n) = true := rfl
@[simp] theorem SlotRecord.isReady_held (o c : Stamp) (n : Half) (p r : Bool) : SlotRecord.isReady (SlotRecord.held o c n p r) = false := rfl
@[simp] theorem SlotRecord.isHeld_free : SlotRecord.isHeld SlotRecord.free = false := rfl
@[simp] theorem SlotRecord.isHeld_filling (o : Stamp) : SlotRecord.isHeld (SlotRecord.filling o) = false := rfl
@[simp] theorem SlotRecord.isHeld_ready (o c : Stamp) (n : Half) : SlotRecord.isHeld (SlotRecord.ready o c n) = false := rfl
@[simp] theorem SlotRecord.isHeld_held (o c : Stamp) (n : Half) (p r : Bool) : SlotRecord.isHeld (SlotRecord.held o c n p r) = true := rfl

@[simp] theorem freeWhere_get (p : SlotRecord → Bool) (r : Ring) (i : Fin 3) :
    Trio.get (freeWhere p r) i = if p (Trio.get r i) then .free else Trio.get r i := by
  simp [freeWhere]

/-- An open: the FILLING slot, or else the lowest FREE one, is FILLING at `t`; without either nothing changes. -/
theorem ringOpen_cases (r : Ring) (t : Stamp) :
    (∃ i, Trio.find r SlotRecord.isFilling = some i ∧ ringOpen r t = Trio.set r i (.filling t)) ∨
    (∃ i, Trio.find r SlotRecord.isFilling = none ∧ Trio.find r SlotRecord.isFree = some i ∧
      ringOpen r t = Trio.set r i (.filling t)) ∨
    (Trio.find r SlotRecord.isFilling = none ∧ Trio.find r SlotRecord.isFree = none ∧ ringOpen r t = r) := by
  unfold ringOpen
  split
  · exact .inl ⟨_, ‹_›, rfl⟩
  · split
    · exact .inr (.inl ⟨_, ‹_›, ‹_›, rfl⟩)
    · exact .inr (.inr ⟨‹_›, ‹_›, rfl⟩)

/-- A publish: without a FILLING slot nothing changes; otherwise the READY slots are freed and the FILLING one is
READY. -/
theorem ringPublish_cases (r : Ring) (close : Stamp) (n : Half) :
    (Trio.find r SlotRecord.isFilling = none ∧ ringPublish r close n = r) ∨
    (∃ i o, Trio.find r SlotRecord.isFilling = some i ∧ Trio.get r i = .filling o ∧
      ringPublish r close n = Trio.set (freeWhere SlotRecord.isReady r) i (.ready o close n)) := by
  unfold ringPublish
  split
  · exact .inl ⟨‹_›, rfl⟩
  · rename_i i hi
    have := (Trio.find_some hi).1
    split
    · exact .inr ⟨i, _, hi, ‹_›, rfl⟩
    · rename_i h
      generalize Trio.get r i = x at this h
      cases x <;> simp_all [SlotRecord.isFilling]

/-- Poisoning marks a HELD slot and changes nothing else. -/
theorem ringPoison_get (r : Ring) (i j : Fin 3) :
    Trio.get (ringPoison r i) j =
      match Trio.get r j with
      | .held o c n p rel => if j = i then .held o c n true rel else .held o c n p rel
      | x => x := by
  unfold ringPoison
  cases hi : Trio.get r i with
  | held o c n p rel =>
    simp only [Trio.get_set]
    split
    · rename_i h; subst h; simp [hi]
    · cases Trio.get r j <;> rfl
  | _ =>
    simp only []
    cases hj : Trio.get r j <;> simp only []
    split
    · rename_i h; subst h; simp [hi] at hj
    · rfl

/-- A take, once and for all: not composable or without a candidate young enough the HELD slots are freed; a READY slot
young enough becomes HELD in their place; a HELD slot that may be repeated stays. -/
theorem ringTake_cases (r : Ring) (composable : Bool) (t : Stamp) (maxAge : Nat) :
    (composable = false ∧ ringTake r composable t maxAge = (ringStop r, .notComposable)) ∨
    (∃ i o c n, composable = true ∧ Trio.find r SlotRecord.isReady = some i ∧ Trio.get r i = .ready o c n ∧
      (ageOf t c).toNat ≤ maxAge ∧
      ringTake r composable t maxAge = (Trio.set (ringStop r) i (.held o c n false false), .taken false i n (ageOf t c))) ∨
    (∃ i o c n, composable = true ∧ Trio.find r SlotRecord.isReady = some i ∧ Trio.get r i = .ready o c n ∧
      maxAge < (ageOf t c).toNat ∧ ringTake r composable t maxAge = (ringStop r, .stale (some (ageOf t c)))) ∨
    (∃ i o c n, composable = true ∧ Trio.find r SlotRecord.isReady = none ∧
      Trio.find r SlotRecord.canRepeat = some i ∧ Trio.get r i = .held o c n false false ∧ (ageOf t c).toNat ≤ maxAge ∧
      ringTake r composable t maxAge = (r, .taken true i n (ageOf t c))) ∨
    (∃ i o c n, composable = true ∧ Trio.find r SlotRecord.isReady = none ∧
      Trio.find r SlotRecord.canRepeat = some i ∧ Trio.get r i = .held o c n false false ∧
      maxAge < (ageOf t c).toNat ∧ ringTake r composable t maxAge = (ringStop r, .stale (some (ageOf t c)))) ∨
    (composable = true ∧ Trio.find r SlotRecord.isReady = none ∧ Trio.find r SlotRecord.canRepeat = none ∧
      ringTake r composable t maxAge = (ringStop r, .stale none)) := by
  cases composable
  · exact .inl ⟨rfl, rfl⟩
  cases hi : Trio.find r SlotRecord.isReady with
  | some i =>
    have h := (Trio.find_some hi).1
    cases hx : Trio.get r i with
    | ready o c n =>
      by_cases ha : (ageOf t c).toNat ≤ maxAge
      · exact .inr (.inl ⟨i, o, c, n, rfl, rfl, hx, ha, by simp [ringTake, hi, hx, ha]⟩)
      · exact .inr (.inr (.inl ⟨i, o, c, n, rfl, rfl, hx, by omega, by simp [ringTake, hi, hx, ha]⟩))
    | _ => simp [hx, SlotRecord.isReady] at h
  | none =>
    cases hj : Trio.find r SlotRecord.canRepeat with
    | some i =>
      have h := (Trio.find_some hj).1
      cases hx : Trio.get r i with
      | held o c n p rel =>
        cases p <;> cases rel <;> simp [hx, SlotRecord.canRepeat] at h
        by_cases ha : (ageOf t c).toNat ≤ maxAge
        · exact .inr (.inr (.inr (.inl ⟨i, o, c, n, rfl, rfl, rfl, hx, ha, by simp [ringTake, hi, hj, hx, ha]⟩)))
        · exact .inr (.inr (.inr (.inr (.inl
            ⟨i, o, c, n, rfl, rfl, rfl, hx, by omega, by simp [ringTake, hi, hj, hx, ha]⟩))))
      | _ => simp [hx, SlotRecord.canRepeat] at h
    | none => exact .inr (.inr (.inr (.inr (.inr ⟨rfl, rfl, rfl, by simp [ringTake, hi, hj]⟩))))

end Sys2Proof.Machine
end

