-- ==== Sys2Proof/Laws/Blocks.lean ====
section
/-! SUPPORT. The blocks that each operation on the whole state leaves alone: one lemma per operation and block. -/
namespace Sys2Proof.Machine

@[simp] theorem State.raiseIf_timebase (s : State) (k : Option NoticeKind) (src : NoticeSource) (t : Stamp) :
    (s.raiseIf k src t).timebase = s.timebase := by
  unfold State.raiseIf; split <;> rfl

@[simp] theorem State.raiseIf_cr (s : State) (k : Option NoticeKind) (src : NoticeSource) (t : Stamp) :
    (s.raiseIf k src t).cr = s.cr := by
  unfold State.raiseIf; split <;> rfl

@[simp] theorem State.raiseIf_fmc (s : State) (k : Option NoticeKind) (src : NoticeSource) (t : Stamp) :
    (s.raiseIf k src t).fmc = s.fmc := by
  unfold State.raiseIf; split <;> rfl

@[simp] theorem State.raiseIf_vs (s : State) (k : Option NoticeKind) (src : NoticeSource) (t : Stamp) :
    (s.raiseIf k src t).vs = s.vs := by
  unfold State.raiseIf; split <;> rfl

@[simp] theorem State.raiseIf_pu (s : State) (k : Option NoticeKind) (src : NoticeSource) (t : Stamp) :
    (s.raiseIf k src t).pu = s.pu := by
  unfold State.raiseIf; split <;> rfl

@[simp] theorem State.raiseIf_ce (s : State) (k : Option NoticeKind) (src : NoticeSource) (t : Stamp) :
    (s.raiseIf k src t).ce = s.ce := by
  unfold State.raiseIf; split <;> rfl

@[simp] theorem State.raiseIf_op (s : State) (k : Option NoticeKind) (src : NoticeSource) (t : Stamp) :
    (s.raiseIf k src t).op = s.op := by
  unfold State.raiseIf; split <;> rfl

@[simp] theorem State.raiseIf_hu (s : State) (k : Option NoticeKind) (src : NoticeSource) (t : Stamp) :
    (s.raiseIf k src t).hu = s.hu := by
  unfold State.raiseIf; split <;> rfl

@[simp] theorem State.raiseIf_fu (s : State) (k : Option NoticeKind) (src : NoticeSource) (t : Stamp) :
    (s.raiseIf k src t).fu = s.fu := by
  unfold State.raiseIf; split <;> rfl

@[simp] theorem State.raiseIf_lc (s : State) (k : Option NoticeKind) (src : NoticeSource) (t : Stamp) :
    (s.raiseIf k src t).lc = s.lc := by
  unfold State.raiseIf; split <;> rfl

@[simp] theorem State.raiseIf_free (s : State) (k : Option NoticeKind) (src : NoticeSource) (t : Stamp) :
    (s.raiseIf k src t).free = s.free := by
  unfold State.raiseIf; split <;> rfl

@[simp] theorem State.raiseIf_pending (s : State) (k : Option NoticeKind) (src : NoticeSource) (t : Stamp) :
    (s.raiseIf k src t).pending = s.pending := by
  unfold State.raiseIf; split <;> rfl

@[simp] theorem State.closeBad_timebase (s : State) (c : Camera) (f : OpenFrame) (x : Failure) (t : Stamp) :
    (s.closeBad c f x t).timebase = s.timebase := by
  unfold State.closeBad; simp only []; split <;> simp

@[simp] theorem State.closeBad_fmc (s : State) (c : Camera) (f : OpenFrame) (x : Failure) (t : Stamp) :
    (s.closeBad c f x t).fmc = s.fmc := by
  unfold State.closeBad; simp only []; split <;> simp

@[simp] theorem State.closeBad_vs (s : State) (c : Camera) (f : OpenFrame) (x : Failure) (t : Stamp) :
    (s.closeBad c f x t).vs = s.vs := by
  unfold State.closeBad; simp only []; split <;> simp

@[simp] theorem State.closeBad_pu (s : State) (c : Camera) (f : OpenFrame) (x : Failure) (t : Stamp) :
    (s.closeBad c f x t).pu = s.pu := by
  unfold State.closeBad; simp only []; split <;> simp

@[simp] theorem State.closeBad_ce (s : State) (c : Camera) (f : OpenFrame) (x : Failure) (t : Stamp) :
    (s.closeBad c f x t).ce = s.ce := by
  unfold State.closeBad; simp only []; split <;> simp

@[simp] theorem State.closeBad_op (s : State) (c : Camera) (f : OpenFrame) (x : Failure) (t : Stamp) :
    (s.closeBad c f x t).op = s.op := by
  unfold State.closeBad; simp only []; split <;> simp

@[simp] theorem State.closeBad_hu (s : State) (c : Camera) (f : OpenFrame) (x : Failure) (t : Stamp) :
    (s.closeBad c f x t).hu = s.hu := by
  unfold State.closeBad; simp only []; split <;> simp

@[simp] theorem State.closeBad_lc (s : State) (c : Camera) (f : OpenFrame) (x : Failure) (t : Stamp) :
    (s.closeBad c f x t).lc = s.lc := by
  unfold State.closeBad; simp only []; split <;> simp

@[simp] theorem State.closeBad_free (s : State) (c : Camera) (f : OpenFrame) (x : Failure) (t : Stamp) :
    (s.closeBad c f x t).free = s.free := by
  unfold State.closeBad; simp only []; split <;> simp

@[simp] theorem State.closeBad_pending (s : State) (c : Camera) (f : OpenFrame) (x : Failure) (t : Stamp) :
    (s.closeBad c f x t).pending = s.pending := by
  unfold State.closeBad; simp only []; split <;> simp

@[simp] theorem State.closeGood_timebase (s : State) (c : Camera) (i : Info) (t : Stamp) :
    (s.closeGood c i t).timebase = s.timebase := by
  unfold State.closeGood; simp only []; split <;> split <;> simp

@[simp] theorem State.closeGood_fmc (s : State) (c : Camera) (i : Info) (t : Stamp) :
    (s.closeGood c i t).fmc = s.fmc := by
  unfold State.closeGood; simp only []; split <;> split <;> simp

@[simp] theorem State.closeGood_vs (s : State) (c : Camera) (i : Info) (t : Stamp) :
    (s.closeGood c i t).vs = s.vs := by
  unfold State.closeGood; simp only []; split <;> split <;> simp

@[simp] theorem State.closeGood_pu (s : State) (c : Camera) (i : Info) (t : Stamp) :
    (s.closeGood c i t).pu = s.pu := by
  unfold State.closeGood; simp only []; split <;> split <;> simp

@[simp] theorem State.closeGood_ce (s : State) (c : Camera) (i : Info) (t : Stamp) :
    (s.closeGood c i t).ce = s.ce := by
  unfold State.closeGood; simp only []; split <;> split <;> simp

@[simp] theorem State.closeGood_op (s : State) (c : Camera) (i : Info) (t : Stamp) :
    (s.closeGood c i t).op = s.op := by
  unfold State.closeGood; simp only []; split <;> split <;> simp

@[simp] theorem State.closeGood_lc (s : State) (c : Camera) (i : Info) (t : Stamp) :
    (s.closeGood c i t).lc = s.lc := by
  unfold State.closeGood; simp only []; split <;> split <;> simp

@[simp] theorem State.closeGood_free (s : State) (c : Camera) (i : Info) (t : Stamp) :
    (s.closeGood c i t).free = s.free := by
  unfold State.closeGood; simp only []; split <;> split <;> simp

@[simp] theorem State.closeGood_pending (s : State) (c : Camera) (i : Info) (t : Stamp) :
    (s.closeGood c i t).pending = s.pending := by
  unfold State.closeGood; simp only []; split <;> split <;> simp

@[simp] theorem State.cutWriter_timebase (s : State) (c : Camera) :
    (s.cutWriter c).timebase = s.timebase := by
  unfold State.cutWriter; split
  · split <;> rfl
  · rfl

@[simp] theorem State.cutWriter_cr (s : State) (c : Camera) :
    (s.cutWriter c).cr = s.cr := by
  unfold State.cutWriter; split
  · split <;> rfl
  · rfl

@[simp] theorem State.cutWriter_vs (s : State) (c : Camera) :
    (s.cutWriter c).vs = s.vs := by
  unfold State.cutWriter; split
  · split <;> rfl
  · rfl

@[simp] theorem State.cutWriter_pu (s : State) (c : Camera) :
    (s.cutWriter c).pu = s.pu := by
  unfold State.cutWriter; split
  · split <;> rfl
  · rfl

@[simp] theorem State.cutWriter_ce (s : State) (c : Camera) :
    (s.cutWriter c).ce = s.ce := by
  unfold State.cutWriter; split
  · split <;> rfl
  · rfl

@[simp] theorem State.cutWriter_op (s : State) (c : Camera) :
    (s.cutWriter c).op = s.op := by
  unfold State.cutWriter; split
  · split <;> rfl
  · rfl

@[simp] theorem State.cutWriter_hu (s : State) (c : Camera) :
    (s.cutWriter c).hu = s.hu := by
  unfold State.cutWriter; split
  · split <;> rfl
  · rfl

@[simp] theorem State.cutWriter_fu (s : State) (c : Camera) :
    (s.cutWriter c).fu = s.fu := by
  unfold State.cutWriter; split
  · split <;> rfl
  · rfl

@[simp] theorem State.cutWriter_nq (s : State) (c : Camera) :
    (s.cutWriter c).nq = s.nq := by
  unfold State.cutWriter; split
  · split <;> rfl
  · rfl

@[simp] theorem State.cutWriter_lc (s : State) (c : Camera) :
    (s.cutWriter c).lc = s.lc := by
  unfold State.cutWriter; split
  · split <;> rfl
  · rfl

@[simp] theorem State.cutWriter_pending (s : State) (c : Camera) :
    (s.cutWriter c).pending = s.pending := by
  unfold State.cutWriter; split
  · split <;> rfl
  · rfl

@[simp] theorem State.releaseRing_timebase (s : State) (c : Camera) :
    (s.releaseRing c).timebase = s.timebase := by
  simp [State.releaseRing]

@[simp] theorem State.releaseRing_cr (s : State) (c : Camera) :
    (s.releaseRing c).cr = s.cr := by
  simp [State.releaseRing]

@[simp] theorem State.releaseRing_vs (s : State) (c : Camera) :
    (s.releaseRing c).vs = s.vs := by
  simp [State.releaseRing]

@[simp] theorem State.releaseRing_pu (s : State) (c : Camera) :
    (s.releaseRing c).pu = s.pu := by
  simp [State.releaseRing]

@[simp] theorem State.releaseRing_ce (s : State) (c : Camera) :
    (s.releaseRing c).ce = s.ce := by
  simp [State.releaseRing]

@[simp] theorem State.releaseRing_op (s : State) (c : Camera) :
    (s.releaseRing c).op = s.op := by
  simp [State.releaseRing]

@[simp] theorem State.releaseRing_hu (s : State) (c : Camera) :
    (s.releaseRing c).hu = s.hu := by
  simp [State.releaseRing]

@[simp] theorem State.releaseRing_fu (s : State) (c : Camera) :
    (s.releaseRing c).fu = s.fu := by
  simp [State.releaseRing]

@[simp] theorem State.releaseRing_nq (s : State) (c : Camera) :
    (s.releaseRing c).nq = s.nq := by
  simp [State.releaseRing]

@[simp] theorem State.releaseRing_lc (s : State) (c : Camera) :
    (s.releaseRing c).lc = s.lc := by
  simp [State.releaseRing]

@[simp] theorem State.releaseRing_pending (s : State) (c : Camera) :
    (s.releaseRing c).pending = s.pending := by
  simp [State.releaseRing]

@[simp] theorem State.cutTransfer_timebase (s : State) : s.cutTransfer.timebase = s.timebase := by
  unfold State.cutTransfer; split <;> simp

@[simp] theorem State.cutTransfer_cr (s : State) : s.cutTransfer.cr = s.cr := by
  unfold State.cutTransfer; split <;> simp

@[simp] theorem State.cutTransfer_vs (s : State) : s.cutTransfer.vs = s.vs := by
  unfold State.cutTransfer; split <;> simp

@[simp] theorem State.cutTransfer_pu (s : State) : s.cutTransfer.pu = s.pu := by
  unfold State.cutTransfer; split <;> simp

@[simp] theorem State.cutTransfer_ce (s : State) : s.cutTransfer.ce = s.ce := by
  unfold State.cutTransfer; split <;> simp

@[simp] theorem State.cutTransfer_op (s : State) : s.cutTransfer.op = s.op := by
  unfold State.cutTransfer; split <;> simp

@[simp] theorem State.cutTransfer_hu (s : State) : s.cutTransfer.hu = s.hu := by
  unfold State.cutTransfer; split <;> simp

@[simp] theorem State.cutTransfer_fu (s : State) : s.cutTransfer.fu = s.fu := by
  unfold State.cutTransfer; split <;> simp

@[simp] theorem State.cutTransfer_nq (s : State) : s.cutTransfer.nq = s.nq := by
  unfold State.cutTransfer; split <;> simp

@[simp] theorem State.cutTransfer_lc (s : State) : s.cutTransfer.lc = s.lc := by
  unfold State.cutTransfer; split <;> simp

@[simp] theorem State.cutTransfer_pending (s : State) : s.cutTransfer.pending = s.pending := by
  unfold State.cutTransfer; split <;> simp

@[simp] theorem State.afterPoisonLine_timebase (s : State) : s.afterPoisonLine.timebase = s.timebase := by
  unfold State.afterPoisonLine; split <;> rfl

@[simp] theorem State.afterPoisonLine_cr (s : State) : s.afterPoisonLine.cr = s.cr := by
  unfold State.afterPoisonLine; split <;> rfl

@[simp] theorem State.afterPoisonLine_fmc (s : State) : s.afterPoisonLine.fmc = s.fmc := by
  unfold State.afterPoisonLine; split <;> rfl

@[simp] theorem State.afterPoisonLine_vs (s : State) : s.afterPoisonLine.vs = s.vs := by
  unfold State.afterPoisonLine; split <;> rfl

@[simp] theorem State.afterPoisonLine_pu (s : State) : s.afterPoisonLine.pu = s.pu := by
  unfold State.afterPoisonLine; split <;> rfl

@[simp] theorem State.afterPoisonLine_ce (s : State) : s.afterPoisonLine.ce = s.ce := by
  unfold State.afterPoisonLine; split <;> rfl

@[simp] theorem State.afterPoisonLine_op (s : State) : s.afterPoisonLine.op = s.op := by
  unfold State.afterPoisonLine; split <;> rfl

@[simp] theorem State.afterPoisonLine_hu (s : State) : s.afterPoisonLine.hu = s.hu := by
  unfold State.afterPoisonLine; split <;> rfl

@[simp] theorem State.afterPoisonLine_fu (s : State) : s.afterPoisonLine.fu = s.fu := by
  unfold State.afterPoisonLine; split <;> rfl

@[simp] theorem State.afterPoisonLine_nq (s : State) : s.afterPoisonLine.nq = s.nq := by
  unfold State.afterPoisonLine; split <;> rfl

@[simp] theorem State.afterPoisonLine_lc (s : State) : s.afterPoisonLine.lc = s.lc := by
  unfold State.afterPoisonLine; split <;> rfl

@[simp] theorem State.afterPoisonLine_pending (s : State) : s.afterPoisonLine.pending = s.pending := by
  unfold State.afterPoisonLine; split <;> rfl

/-- A free value is used exactly where the engine composes no line. -/
theorem State.afterPoisonLine_free (s : State) :
    s.afterPoisonLine.free = if s.ce.state = .composing then s.free else s.free + 1 := by
  unfold State.afterPoisonLine; split <;> rfl

/-- The line of a POISON fault is the one being composed, and else some line of the canvas. -/
theorem State.poisonLine_spec (s : State) :
    (s.ce.state = .composing → s.poisonLine = s.ce.line) ∧ (s.ce.state ≠ .composing → s.poisonLine < 960) := by
  unfold State.poisonLine
  constructor <;> intro h <;> simp [h]

@[simp] theorem State.poison_timebase (s : State) (t : Stamp) (c : Camera) (slot : Fin 3) (counter : Half) (n : Count) :
    (s.poison t c slot counter n).timebase = s.timebase := by
  simp [State.poison]

@[simp] theorem State.poison_cr (s : State) (t : Stamp) (c : Camera) (slot : Fin 3) (counter : Half) (n : Count) :
    (s.poison t c slot counter n).cr = s.cr := by
  simp [State.poison]

@[simp] theorem State.poison_vs (s : State) (t : Stamp) (c : Camera) (slot : Fin 3) (counter : Half) (n : Count) :
    (s.poison t c slot counter n).vs = s.vs := by
  simp [State.poison]

@[simp] theorem State.poison_pu (s : State) (t : Stamp) (c : Camera) (slot : Fin 3) (counter : Half) (n : Count) :
    (s.poison t c slot counter n).pu = s.pu := by
  simp [State.poison]

@[simp] theorem State.poison_op (s : State) (t : Stamp) (c : Camera) (slot : Fin 3) (counter : Half) (n : Count) :
    (s.poison t c slot counter n).op = s.op := by
  simp [State.poison]

@[simp] theorem State.poison_hu (s : State) (t : Stamp) (c : Camera) (slot : Fin 3) (counter : Half) (n : Count) :
    (s.poison t c slot counter n).hu = s.hu := by
  simp [State.poison]

@[simp] theorem State.poison_lc (s : State) (t : Stamp) (c : Camera) (slot : Fin 3) (counter : Half) (n : Count) :
    (s.poison t c slot counter n).lc = s.lc := by
  simp [State.poison]

@[simp] theorem State.poison_pending (s : State) (t : Stamp) (c : Camera) (slot : Fin 3) (counter : Half) (n : Count) :
    (s.poison t c slot counter n).pending = s.pending := by
  simp [State.poison]

@[simp] theorem State.completeTaps_timebase (s : State) (t : Stamp) (upsets : List (Nat × WordError)) (c : Camera) (slot : Fin 3) (counter : Half)
    (n : Count) (line x : Nat) (u v : Int) (w h : Nat) :
    (s.completeTaps t upsets c slot counter n line x u v w h).timebase = s.timebase := by
  unfold State.completeTaps; simp only []; split <;> split <;> simp

@[simp] theorem State.completeTaps_cr (s : State) (t : Stamp) (upsets : List (Nat × WordError)) (c : Camera) (slot : Fin 3) (counter : Half)
    (n : Count) (line x : Nat) (u v : Int) (w h : Nat) :
    (s.completeTaps t upsets c slot counter n line x u v w h).cr = s.cr := by
  unfold State.completeTaps; simp only []; split <;> split <;> simp

@[simp] theorem State.completeTaps_vs (s : State) (t : Stamp) (upsets : List (Nat × WordError)) (c : Camera) (slot : Fin 3) (counter : Half)
    (n : Count) (line x : Nat) (u v : Int) (w h : Nat) :
    (s.completeTaps t upsets c slot counter n line x u v w h).vs = s.vs := by
  unfold State.completeTaps; simp only []; split <;> split <;> simp

@[simp] theorem State.completeTaps_pu (s : State) (t : Stamp) (upsets : List (Nat × WordError)) (c : Camera) (slot : Fin 3) (counter : Half)
    (n : Count) (line x : Nat) (u v : Int) (w h : Nat) :
    (s.completeTaps t upsets c slot counter n line x u v w h).pu = s.pu := by
  unfold State.completeTaps; simp only []; split <;> split <;> simp

@[simp] theorem State.completeTaps_op (s : State) (t : Stamp) (upsets : List (Nat × WordError)) (c : Camera) (slot : Fin 3) (counter : Half)
    (n : Count) (line x : Nat) (u v : Int) (w h : Nat) :
    (s.completeTaps t upsets c slot counter n line x u v w h).op = s.op := by
  unfold State.completeTaps; simp only []; split <;> split <;> simp

@[simp] theorem State.completeTaps_hu (s : State) (t : Stamp) (upsets : List (Nat × WordError)) (c : Camera) (slot : Fin 3) (counter : Half)
    (n : Count) (line x : Nat) (u v : Int) (w h : Nat) :
    (s.completeTaps t upsets c slot counter n line x u v w h).hu = s.hu := by
  unfold State.completeTaps; simp only []; split <;> split <;> simp

@[simp] theorem State.completeTaps_lc (s : State) (t : Stamp) (upsets : List (Nat × WordError)) (c : Camera) (slot : Fin 3) (counter : Half)
    (n : Count) (line x : Nat) (u v : Int) (w h : Nat) :
    (s.completeTaps t upsets c slot counter n line x u v w h).lc = s.lc := by
  unfold State.completeTaps; simp only []; split <;> split <;> simp

@[simp] theorem State.completeTaps_pending (s : State) (t : Stamp) (upsets : List (Nat × WordError)) (c : Camera) (slot : Fin 3) (counter : Half)
    (n : Count) (line x : Nat) (u v : Int) (w h : Nat) :
    (s.completeTaps t upsets c slot counter n line x u v w h).pending = s.pending := by
  unfold State.completeTaps; simp only []; split <;> split <;> simp

@[simp] theorem State.underrun_timebase (s : State) (k : Nat) (t : Stamp) :
    (s.underrun k t).timebase = s.timebase := by
  simp [State.underrun]

@[simp] theorem State.underrun_cr (s : State) (k : Nat) (t : Stamp) :
    (s.underrun k t).cr = s.cr := by
  simp [State.underrun]

@[simp] theorem State.underrun_fmc (s : State) (k : Nat) (t : Stamp) :
    (s.underrun k t).fmc = s.fmc := by
  simp [State.underrun]

@[simp] theorem State.underrun_vs (s : State) (k : Nat) (t : Stamp) :
    (s.underrun k t).vs = s.vs := by
  simp [State.underrun]

@[simp] theorem State.underrun_pu (s : State) (k : Nat) (t : Stamp) :
    (s.underrun k t).pu = s.pu := by
  simp [State.underrun]

@[simp] theorem State.underrun_hu (s : State) (k : Nat) (t : Stamp) :
    (s.underrun k t).hu = s.hu := by
  simp [State.underrun]

@[simp] theorem State.underrun_lc (s : State) (k : Nat) (t : Stamp) :
    (s.underrun k t).lc = s.lc := by
  simp [State.underrun]

@[simp] theorem State.underrun_free (s : State) (k : Nat) (t : Stamp) :
    (s.underrun k t).free = s.free := by
  simp [State.underrun]

@[simp] theorem State.underrun_pending (s : State) (k : Nat) (t : Stamp) :
    (s.underrun k t).pending = s.pending := by
  simp [State.underrun]

@[simp] theorem State.emitLine_timebase (s : State) (k : Nat) (t : Stamp) :
    (s.emitLine k t).timebase = s.timebase := by
  unfold State.emitLine; split
  · split <;> simp
  · simp

@[simp] theorem State.emitLine_cr (s : State) (k : Nat) (t : Stamp) :
    (s.emitLine k t).cr = s.cr := by
  unfold State.emitLine; split
  · split <;> simp
  · simp

@[simp] theorem State.emitLine_fmc (s : State) (k : Nat) (t : Stamp) :
    (s.emitLine k t).fmc = s.fmc := by
  unfold State.emitLine; split
  · split <;> simp
  · simp

@[simp] theorem State.emitLine_vs (s : State) (k : Nat) (t : Stamp) :
    (s.emitLine k t).vs = s.vs := by
  unfold State.emitLine; split
  · split <;> simp
  · simp

@[simp] theorem State.emitLine_pu (s : State) (k : Nat) (t : Stamp) :
    (s.emitLine k t).pu = s.pu := by
  unfold State.emitLine; split
  · split <;> simp
  · simp

@[simp] theorem State.emitLine_hu (s : State) (k : Nat) (t : Stamp) :
    (s.emitLine k t).hu = s.hu := by
  unfold State.emitLine; split
  · split <;> simp
  · simp

@[simp] theorem State.emitLine_lc (s : State) (k : Nat) (t : Stamp) :
    (s.emitLine k t).lc = s.lc := by
  unfold State.emitLine; split
  · split <;> simp
  · simp

@[simp] theorem State.emitLine_free (s : State) (k : Nat) (t : Stamp) :
    (s.emitLine k t).free = s.free := by
  unfold State.emitLine; split
  · split <;> simp
  · simp

@[simp] theorem State.emitLine_pending (s : State) (k : Nat) (t : Stamp) :
    (s.emitLine k t).pending = s.pending := by
  unfold State.emitLine; split
  · split <;> simp
  · simp

@[simp] theorem State.stopOutput_timebase (s : State) (t : Stamp) :
    (s.stopOutput t).timebase = s.timebase := by
  simp [State.stopOutput]

@[simp] theorem State.stopOutput_cr (s : State) (t : Stamp) :
    (s.stopOutput t).cr = s.cr := by
  simp [State.stopOutput]

@[simp] theorem State.stopOutput_vs (s : State) (t : Stamp) :
    (s.stopOutput t).vs = s.vs := by
  simp [State.stopOutput]

@[simp] theorem State.stopOutput_ce (s : State) (t : Stamp) :
    (s.stopOutput t).ce = s.ce := by
  simp [State.stopOutput]

@[simp] theorem State.stopOutput_hu (s : State) (t : Stamp) :
    (s.stopOutput t).hu = s.hu := by
  simp [State.stopOutput]

@[simp] theorem State.stopOutput_fu (s : State) (t : Stamp) :
    (s.stopOutput t).fu = s.fu := by
  simp [State.stopOutput]

@[simp] theorem State.stopOutput_lc (s : State) (t : Stamp) :
    (s.stopOutput t).lc = s.lc := by
  simp [State.stopOutput]

@[simp] theorem State.stopOutput_free (s : State) (t : Stamp) :
    (s.stopOutput t).free = s.free := by
  simp [State.stopOutput]

@[simp] theorem State.stopOutput_pending (s : State) (t : Stamp) :
    (s.stopOutput t).pending = s.pending := by
  simp [State.stopOutput]

@[simp] theorem State.endFrame_timebase (s : State) (set : CompSet) (t : Stamp) :
    (s.endFrame set t).timebase = s.timebase := by
  unfold State.endFrame; simp only []; split <;> simp

@[simp] theorem State.endFrame_cr (s : State) (set : CompSet) (t : Stamp) :
    (s.endFrame set t).cr = s.cr := by
  unfold State.endFrame; simp only []; split <;> simp

@[simp] theorem State.endFrame_vs (s : State) (set : CompSet) (t : Stamp) :
    (s.endFrame set t).vs = s.vs := by
  unfold State.endFrame; simp only []; split <;> simp

@[simp] theorem State.endFrame_fu (s : State) (set : CompSet) (t : Stamp) :
    (s.endFrame set t).fu = s.fu := by
  unfold State.endFrame; simp only []; split <;> simp

@[simp] theorem State.endFrame_lc (s : State) (set : CompSet) (t : Stamp) :
    (s.endFrame set t).lc = s.lc := by
  unfold State.endFrame; simp only []; split <;> simp

@[simp] theorem State.endFrame_free (s : State) (set : CompSet) (t : Stamp) :
    (s.endFrame set t).free = s.free := by
  unfold State.endFrame; simp only []; split <;> simp

@[simp] theorem State.endFrame_pending (s : State) (set : CompSet) (t : Stamp) :
    (s.endFrame set t).pending = s.pending := by
  unfold State.endFrame; simp only []; split <;> simp

@[simp] theorem State.raiseStale_timebase (cls : Quad StartClass) (t : Stamp) (s : State) (c : Camera) :
    (State.raiseStale cls t s c).timebase = s.timebase := by
  unfold State.raiseStale; split <;> rfl

@[simp] theorem State.raiseStale_cr (cls : Quad StartClass) (t : Stamp) (s : State) (c : Camera) :
    (State.raiseStale cls t s c).cr = s.cr := by
  unfold State.raiseStale; split <;> rfl

@[simp] theorem State.raiseStale_fmc (cls : Quad StartClass) (t : Stamp) (s : State) (c : Camera) :
    (State.raiseStale cls t s c).fmc = s.fmc := by
  unfold State.raiseStale; split <;> rfl

@[simp] theorem State.raiseStale_vs (cls : Quad StartClass) (t : Stamp) (s : State) (c : Camera) :
    (State.raiseStale cls t s c).vs = s.vs := by
  unfold State.raiseStale; split <;> rfl

@[simp] theorem State.raiseStale_pu (cls : Quad StartClass) (t : Stamp) (s : State) (c : Camera) :
    (State.raiseStale cls t s c).pu = s.pu := by
  unfold State.raiseStale; split <;> rfl

@[simp] theorem State.raiseStale_ce (cls : Quad StartClass) (t : Stamp) (s : State) (c : Camera) :
    (State.raiseStale cls t s c).ce = s.ce := by
  unfold State.raiseStale; split <;> rfl

@[simp] theorem State.raiseStale_op (cls : Quad StartClass) (t : Stamp) (s : State) (c : Camera) :
    (State.raiseStale cls t s c).op = s.op := by
  unfold State.raiseStale; split <;> rfl

@[simp] theorem State.raiseStale_hu (cls : Quad StartClass) (t : Stamp) (s : State) (c : Camera) :
    (State.raiseStale cls t s c).hu = s.hu := by
  unfold State.raiseStale; split <;> rfl

@[simp] theorem State.raiseStale_fu (cls : Quad StartClass) (t : Stamp) (s : State) (c : Camera) :
    (State.raiseStale cls t s c).fu = s.fu := by
  unfold State.raiseStale; split <;> rfl

@[simp] theorem State.raiseStale_lc (cls : Quad StartClass) (t : Stamp) (s : State) (c : Camera) :
    (State.raiseStale cls t s c).lc = s.lc := by
  unfold State.raiseStale; split <;> rfl

@[simp] theorem State.raiseStale_free (cls : Quad StartClass) (t : Stamp) (s : State) (c : Camera) :
    (State.raiseStale cls t s c).free = s.free := by
  unfold State.raiseStale; split <;> rfl

@[simp] theorem State.raiseStale_pending (cls : Quad StartClass) (t : Stamp) (s : State) (c : Camera) :
    (State.raiseStale cls t s c).pending = s.pending := by
  unfold State.raiseStale; split <;> rfl

@[simp] theorem State.raiseStales_timebase (cls : Quad StartClass) (t : Stamp) (l : List Camera) (s : State) :
    (l.foldl (State.raiseStale cls t) s).timebase = s.timebase := by
  induction l generalizing s with
  | nil => rfl
  | cons c r ih => simp [ih]

@[simp] theorem State.raiseStales_cr (cls : Quad StartClass) (t : Stamp) (l : List Camera) (s : State) :
    (l.foldl (State.raiseStale cls t) s).cr = s.cr := by
  induction l generalizing s with
  | nil => rfl
  | cons c r ih => simp [ih]

@[simp] theorem State.raiseStales_fmc (cls : Quad StartClass) (t : Stamp) (l : List Camera) (s : State) :
    (l.foldl (State.raiseStale cls t) s).fmc = s.fmc := by
  induction l generalizing s with
  | nil => rfl
  | cons c r ih => simp [ih]

@[simp] theorem State.raiseStales_vs (cls : Quad StartClass) (t : Stamp) (l : List Camera) (s : State) :
    (l.foldl (State.raiseStale cls t) s).vs = s.vs := by
  induction l generalizing s with
  | nil => rfl
  | cons c r ih => simp [ih]

@[simp] theorem State.raiseStales_pu (cls : Quad StartClass) (t : Stamp) (l : List Camera) (s : State) :
    (l.foldl (State.raiseStale cls t) s).pu = s.pu := by
  induction l generalizing s with
  | nil => rfl
  | cons c r ih => simp [ih]

@[simp] theorem State.raiseStales_ce (cls : Quad StartClass) (t : Stamp) (l : List Camera) (s : State) :
    (l.foldl (State.raiseStale cls t) s).ce = s.ce := by
  induction l generalizing s with
  | nil => rfl
  | cons c r ih => simp [ih]

@[simp] theorem State.raiseStales_op (cls : Quad StartClass) (t : Stamp) (l : List Camera) (s : State) :
    (l.foldl (State.raiseStale cls t) s).op = s.op := by
  induction l generalizing s with
  | nil => rfl
  | cons c r ih => simp [ih]

@[simp] theorem State.raiseStales_hu (cls : Quad StartClass) (t : Stamp) (l : List Camera) (s : State) :
    (l.foldl (State.raiseStale cls t) s).hu = s.hu := by
  induction l generalizing s with
  | nil => rfl
  | cons c r ih => simp [ih]

@[simp] theorem State.raiseStales_fu (cls : Quad StartClass) (t : Stamp) (l : List Camera) (s : State) :
    (l.foldl (State.raiseStale cls t) s).fu = s.fu := by
  induction l generalizing s with
  | nil => rfl
  | cons c r ih => simp [ih]

@[simp] theorem State.raiseStales_lc (cls : Quad StartClass) (t : Stamp) (l : List Camera) (s : State) :
    (l.foldl (State.raiseStale cls t) s).lc = s.lc := by
  induction l generalizing s with
  | nil => rfl
  | cons c r ih => simp [ih]

@[simp] theorem State.raiseStales_free (cls : Quad StartClass) (t : Stamp) (l : List Camera) (s : State) :
    (l.foldl (State.raiseStale cls t) s).free = s.free := by
  induction l generalizing s with
  | nil => rfl
  | cons c r ih => simp [ih]

@[simp] theorem State.raiseStales_pending (cls : Quad StartClass) (t : Stamp) (l : List Camera) (s : State) :
    (l.foldl (State.raiseStale cls t) s).pending = s.pending := by
  induction l generalizing s with
  | nil => rfl
  | cons c r ih => simp [ih]

@[simp] theorem State.startFrame_timebase (s : State) (t : Stamp) :
    (s.startFrame t).timebase = s.timebase := by
  unfold State.startFrame; simp only []; split <;> simp

@[simp] theorem State.startFrame_cr (s : State) (t : Stamp) :
    (s.startFrame t).cr = s.cr := by
  unfold State.startFrame; simp only []; split <;> simp

@[simp] theorem State.startFrame_hu (s : State) (t : Stamp) :
    (s.startFrame t).hu = s.hu := by
  unfold State.startFrame; simp only []; split <;> simp

@[simp] theorem State.startFrame_lc (s : State) (t : Stamp) :
    (s.startFrame t).lc = s.lc := by
  unfold State.startFrame; simp only []; split <;> simp

@[simp] theorem State.startFrame_free (s : State) (t : Stamp) :
    (s.startFrame t).free = s.free := by
  unfold State.startFrame; simp only []; split <;> simp

@[simp] theorem State.startFrame_pending (s : State) (t : Stamp) :
    (s.startFrame t).pending = s.pending := by
  unfold State.startFrame; simp only []; split <;> simp

/-- A frame start fixes a composition set (R118). -/
theorem State.startFrame_set (s : State) (t : Stamp) : ∃ set, (s.startFrame t).ce.set = some set := by
  unfold State.startFrame CE.frameStart
  exact ⟨_, (CE.beginLine_frame _ _ 0).2.2.1⟩

/-- A frame start evaluates the withheld set and does nothing else to the fault unit (R153). -/
theorem State.startFrame_fu (s : State) (t : Stamp) : (s.startFrame t).fu = s.fu.evaluate s.pu.reload.frameNo := by
  unfold State.startFrame; simp only []; split <;> simp

end Sys2Proof.Machine
end

