-- ==== Sys2Proof/Laws/Bytes.lean ====
section
/-! SUPPORT. The laws of bytes and values: lengths, and reading back what was written (R179). -/
namespace Sys2Proof.Machine

@[simp] theorem leBytes_length (n v : Nat) : (leBytes n v).length = n := by
  induction n generalizing v with
  | zero => rfl
  | succ n ih => simp [leBytes, ih]

@[simp] theorem leInt_length (n : Nat) (v : Int) : (leInt n v).length = n := by simp [leInt]

/-- The number that was written, if it fits its bytes. -/
theorem leNat_leBytes {n v : Nat} (h : v < 256 ^ n) : leNat (leBytes n v) = v := by
  induction n generalizing v with
  | zero => simp at h; simp [leBytes, leNat, h]
  | succ n ih =>
    have : v / 256 < 256 ^ n := Nat.div_lt_of_lt_mul (by rwa [pow_succ, mul_comm] at h)
    simp only [leBytes, leNat, ih this, BitVec.toNat_ofNat]
    omega

theorem leNat_lt (bs : List Byte) : leNat bs < 256 ^ bs.length := by
  induction bs with
  | nil => simp [leNat]
  | cons b r ih =>
    have := b.isLt
    simp only [leNat, List.length_cons, pow_succ]
    omega

@[simp] theorem field_one (b : Byte) (r : List Byte) : field (b :: r) 0 1 = b.toNat := by simp [field, leNat]

@[simp] theorem flagByte_toNat (b : Bool) : (flagByte b).toNat = if b then 1 else 0 := by cases b <;> rfl

/-- What `flagOf` answers: 0 for no, 1 for yes, nothing else. -/
theorem flagOf_some {n : Nat} {b : Bool} : flagOf n = some b ↔ n = if b then 1 else 0 := by
  unfold flagOf
  cases b <;> (split <;> [skip; split]) <;> simp_all

/-- What `indexOf` answers: the number itself, if it lies in 0..3. -/
theorem indexOf_some {n : Nat} {i : Fin 4} : indexOf n = some i ↔ n = i.val := by
  unfold indexOf
  split
  · simp [Fin.ext_iff]
  · simp only [reduceCtorEq, false_iff]; omega

theorem indexOf_none {n : Nat} : indexOf n = none ↔ 4 ≤ n := by
  unfold indexOf
  split <;> simp <;> omega

end Sys2Proof.Machine
end

