-- ==== Sys2Proof/Laws/Link.lean ====
section
/-! SUPPORT. The laws of the link controller: what executing a request comes to (R172). -/
namespace Sys2Proof.Machine

/-- A request that the executor can take is executed in the state in which it has left the inbox. -/
theorem serve_asks {s : State} {kind tag : Byte} {payload : List Byte} {rest : List Frame}
    (h : s.asks kind tag payload rest) (t : Stamp) (body : State → Served) :
    serve kind t tag payload body s =
      .next ((body ((s.arrive t).setLc { s.lc with inbox := rest })).finish kind tag) := by
  have hc : s.lc.canTake = true := by
    simp [LC.canTake, LC.executorReplies, h.idle, Config.outboxExecutorDepth, h.room]
  simp [serve, h.head, hc]

/-- What executing a request can come to: nothing but the time, or its body in the state in which its frame has left the
head of the inbox. -/
theorem serve_cases (s : State) (kind : Byte) (t : Stamp) (tag : Byte) (payload : List Byte) (body : State → Served) :
    serve kind t tag payload body s = .next (s.arrive t) ∨
    ∃ rest, s.asks kind tag payload rest ∧
      serve kind t tag payload body s =
        .next ((body ((s.arrive t).setLc { s.lc with inbox := rest })).finish kind tag) := by
  cases hi : s.lc.inbox with
  | nil => exact .inl (by simp [serve, hi])
  | cons f rest =>
    by_cases hc : (s.lc.canTake && f == ⟨kind, tag, payload⟩) = true
    · right
      simp only [Bool.and_eq_true, beq_iff_eq] at hc
      obtain ⟨hc, rfl⟩ := hc
      have h : s.asks kind tag payload rest := by
        simp only [LC.canTake, LC.executorReplies, Config.outboxExecutorDepth, Bool.and_eq_true, Option.isNone_iff_eq_none]
          at hc
        exact ⟨hi, hc.1, of_decide_eq_true hc.2⟩
      exact ⟨rest, h, serve_asks h t body⟩
    · exact .inl (by simp [serve, hi, hc])

/-- An answered request, in the words of the claims. -/
theorem finish_reply (s : State) (t : Stamp) (rest : List Frame) (kind tag : Byte) (st : Status) (data : List Byte) :
    (Served.reply ((s.arrive t).setLc { s.lc with inbox := rest }) st data).finish kind tag =
      s.answered t rest kind tag st data := rfl

/-- A reply of the framer enters the outbox where there is room, and nothing else changes. -/
theorem LC.placeFramer_cases (lc : LC) (kind tag : Byte) (st : Status) :
    (lc.framerReplies < 8 ∧ lc.placeFramer kind tag st = { lc with outbox := lc.outbox ++ [⟨kind, tag, st, [], false⟩] }) ∨
    (8 ≤ lc.framerReplies ∧ lc.placeFramer kind tag st = lc) := by
  unfold LC.placeFramer Config.outboxFramerDepth
  split
  · exact .inl ⟨‹_›, rfl⟩
  · exact .inr ⟨by omega, rfl⟩

/-- What a complete frame comes to (R171): it joins the inbox, is answered BUSY, or is answered BAD_FRAME. -/
theorem LC.complete_cases (lc : LC) (len : Nat) (kind tag : Byte) (body c : List Byte) :
    (leNat c = (crc (framed len kind tag body)).toNat ∧ lc.inbox.length < 4 ∧
      lc.complete len kind tag body c = { lc with inbox := lc.inbox ++ [⟨kind, tag, body⟩] }) ∨
    (leNat c = (crc (framed len kind tag body)).toNat ∧ 4 ≤ lc.inbox.length ∧
      lc.complete len kind tag body c = lc.placeFramer kind tag .busy) ∨
    (leNat c ≠ (crc (framed len kind tag body)).toNat ∧
      lc.complete len kind tag body c = lc.placeFramer kind tag .badFrame) := by
  unfold LC.complete Config.inboxDepth
  split
  · split
    · exact .inl ⟨‹_›, ‹_›, rfl⟩
    · exact .inr (.inl ⟨‹_›, by omega, rfl⟩)
  · exact .inr (.inr ⟨‹_›, rfl⟩)

end Sys2Proof.Machine
end

