-- ==== Sys2Proof/Laws/Memory.lean ====
section
/-! SUPPORT. The laws of frame memory: reading after writing, and that every operation keeps the canonical form. -/
namespace Sys2Proof.Machine

@[simp] theorem memRead_memWrite_same (m : List Host.Cell) (a : Nat) (b : Byte) : memRead (memWrite m a b) a = b := by
  unfold memRead memWrite
  split
  · rename_i h; simp [keyGet_keyDel_same, h]
  · simp [keyGet_keyPut_same]

theorem memRead_memWrite_other (m : List Host.Cell) {a x : Nat} (b : Byte) (h : x ≠ a) :
    memRead (memWrite m a b) x = memRead m x := by
  unfold memRead memWrite
  split
  · rw [keyGet_keyDel_other m h]
  · rw [keyGet_keyPut_other m b h]

theorem memWf_memWrite {m : List Host.Cell} (a : Nat) (b : Byte) (h : memWf m = true) : memWf (memWrite m a b) = true := by
  simp only [memWf, Bool.and_eq_true, List.all_eq_true, bne_iff_ne] at h ⊢
  unfold memWrite
  split
  · exact ⟨keysRising_keyDel a h.1, fun e he => h.2 e (keyDel_sub he)⟩
  · refine ⟨keysRising_keyPut a b h.1, fun e he => ?_⟩
    rcases mem_keyPut he with rfl | he
    · assumption
    · exact h.2 e he

/-- Writing consecutive bytes, once and for all: byte `k` of the data at `a + k`, and every other address as before. -/
theorem memRead_memWriteBytes (m : List Host.Cell) (a : Nat) (bs : List Byte) (x : Nat) :
    memRead (memWriteBytes m a bs) x = if h : a ≤ x ∧ x - a < bs.length then bs[x - a]'h.2 else memRead m x := by
  induction bs generalizing m a with
  | nil => simp [memWriteBytes]
  | cons b r ih =>
    simp only [memWriteBytes, ih]
    by_cases hx : x = a
    · subst hx
      simp
    · by_cases hle : a + 1 ≤ x
      · have e : x - a = (x - (a + 1)) + 1 := by omega
        by_cases hlt : x - (a + 1) < r.length
        · simp [hle, hlt, e, show a ≤ x by omega]
        · simp [hlt, e, show a ≤ x by omega, memRead_memWrite_other m b hx]
      · have : ¬ a ≤ x := by omega
        simp [hle, this, memRead_memWrite_other m b hx]

theorem memWf_memWriteBytes {m : List Host.Cell} (a : Nat) (bs : List Byte) (h : memWf m = true) :
    memWf (memWriteBytes m a bs) = true := by
  induction bs generalizing m a with
  | nil => exact h
  | cons b r ih => exact ih _ (memWf_memWrite a b h)

theorem keysRising_clearErrors {e : List (Nat × WordError)} (ws : List Nat) (h : keysRising e = true) :
    keysRising (clearErrors e ws) = true := by
  unfold clearErrors
  induction ws generalizing e with
  | nil => exact h
  | cons w r ih => exact ih (keysRising_keyDel w h)

theorem keysRising_addErrors {e : List (Nat × WordError)} (ws : List Nat) (u : List (Nat × WordError))
    (h : keysRising e = true) : keysRising (addErrors e ws u) = true := by
  unfold addErrors
  generalize u.filter _ = l
  induction l generalizing e with
  | nil => exact h
  | cons x r ih => exact ih (keysRising_keyPut _ _ h)

theorem errorBits_le (e : Option WordError) : errorBits e ≤ 2 := by
  rcases e with _ | _ | _ <;> decide

theorem errorBits_inj {a b : Option WordError} (h : errorBits a = errorBits b) : a = b := by
  rcases a with _ | _ | _ <;> rcases b with _ | _ | _ <;> simp_all [errorBits]

/-- Bits in error add up, and two are as many as the code tells apart (R105). -/
theorem errorBits_worse (e : Option WordError) (x : WordError) :
    errorBits (some (worse e x)) = min 2 (errorBits e + errorBits (some x)) := by
  rcases e with _ | _ | _ <;> cases x <;> rfl

/-- What the errors met by a read are, once and for all: in every word read the bits in error before and those of its
upsets, up to two; every other word as before. -/
theorem errorBits_addErrors (e : List (Nat × WordError)) (ws : List Nat) (u : List (Nat × WordError)) (a : Nat) :
    errorBits (keyGet (addErrors e ws u) a) =
      if a ∈ ws then min 2 (errorBits (keyGet e a) + ((u.filter fun x => x.1 = a).map fun x => errorBits (some x.2)).sum)
      else errorBits (keyGet e a) := by
  unfold addErrors
  induction u generalizing e with
  | nil => by_cases h : a ∈ ws <;> simp [h, errorBits_le]
  | cons x r ih =>
    by_cases hx : ws.contains x.1 = true
    · rw [List.filter_cons_of_pos (by simpa using hx), List.foldl_cons, ih]
      by_cases ha : x.1 = a
      · subst ha
        have hm : x.1 ∈ ws := by simpa using hx
        simp only [hm, if_true, keyGet_keyPut_same, errorBits_worse, decide_true, List.filter_cons_of_pos, List.map_cons,
          List.sum_cons]
        omega
      · rw [keyGet_keyPut_other _ _ (Ne.symm ha)]
        simp [ha]
    · rw [List.filter_cons_of_neg (by simpa using hx), ih]
      by_cases ha : x.1 = a
      · subst ha
        have hm : x.1 ∉ ws := by simpa using hx
        simp [hm]
      · simp [ha]

end Sys2Proof.Machine
end

