-- ==== Sys2Proof/Laws/Exec.lean ====
section
/-! SUPPORT. How a property of states is carried through every command at once, what a writer transfer leaves, and the
small laws of clamping, serving and replying that the claims' own terms need. -/
namespace Sys2Proof.Machine

/-! ### Requests -/

/-- The state that a served request leaves, whatever it answers. -/
def Served.state : Served → State
  | .reply s _ _ => s
  | .later s => s

/-- What serving a request can do: nothing but pass the time, or take the head of the inbox and run the request. -/
theorem serve_next {kind : Byte} {t : Stamp} {tag : Byte} {p : List Byte} {body : State → Served} {s s' : State}
    (h : serve kind t tag p body s = .next s') :
    s' = s.arrive t ∨ ∃ rest, s.asks kind tag p rest ∧
      s' = (body ((s.arrive t).setLc { s.lc with inbox := rest })).finish kind tag := by
  rcases serve_cases s kind t tag p body with h' | ⟨rest, ha, h'⟩ <;> rw [h'] at h
  · cases h; exact .inl rfl
  · cases h; exact .inr ⟨rest, ha, rfl⟩

theorem operational_of_ready {s : State} (h : s.pu.run ≠ .startup ∧ s.pu.run ≠ .memoryFault) :
    s.pu.run.operational = true := by
  cases hr : s.pu.run <;> simp_all [RunState.operational]

/-- The framer's reply enters the outbox as `framerOutbox` says. -/
theorem LC.placeFramer_eq (lc : LC) (k g : Byte) (st : Status) :
    lc.placeFramer k g st = { lc with outbox := lc.framerOutbox k g st } := by
  simp only [LC.placeFramer, LC.framerOutbox, LC.framerReplies, Config.outboxFramerDepth]
  by_cases h : (List.filter (fun r => !r.executor) lc.outbox).length < 8 <;> simp [h]

/-! ### A property carried through every command -/

/-- A property of states that looks neither at the timebase nor at the link controller nor at the waiting commands. -/
structure Blind (P : State → Prop) : Prop where
  clock : ∀ s t, P s → P (s.setTimebase t)
  link : ∀ s l, P s → P (s.setLc l)
  queue : ∀ s l, P s → P (s.setPending l)

/-- Serving a request keeps a blind property that the request's own work keeps. -/
theorem Blind.serve {P : State → Prop} (b : Blind P) {kind : Byte} {t : Stamp} {tag : Byte} {p : List Byte}
    {body : State → Served} {s s' : State} (h : serve kind t tag p body s = .next s') (hP : P s)
    (hb : ∀ s, P s → P (body s).state) : P s' := by
  rcases serve_next h with rfl | ⟨rest, _, rfl⟩
  · exact b.clock _ _ hP
  · have := hb _ (b.link _ { s.lc with inbox := rest } (b.clock s t hP))
    change P (body ((s.arrive t).setLc { s.lc with inbox := rest })).state at this
    generalize body ((s.arrive t).setLc { s.lc with inbox := rest }) = x at this
    cases x with
    | reply x st d => exact b.link _ _ this
    | later x => exact this

theorem whenReady_keeps {P : State → Prop} {s : State} {k : Served} (h0 : P s)
    (h : s.pu.run.operational = true → P k.state) : P (whenReady s k).state := by
  unfold whenReady; split; exact h ‹_›; exact h0

theorem whenLength_keeps {P : State → Prop} {s : State} {k : Served} {p : List Byte} {n : Nat} (h0 : P s) (h : P k.state) :
    P (whenLength s p n k).state := by
  unfold whenLength; split; exact h; exact h0

theorem withIndex_keeps {P : State → Prop} {s : State} {k : Fin 4 → Served} {n : Nat} (h0 : P s)
    (h : ∀ i, P (k i).state) : P (withIndex s n k).state := by
  unfold withIndex; split; exact h _; exact h0

/-- What is to be shown, operation by operation, of a blind property that every command keeps. -/
structure KeptByOps (P : State → Prop) : Prop where
  blind : Blind P
  powerOn : ∀ a b s, P s → P { State.reset with
    lc := { LC.reset with rate1 := a, rate0 := b }, free := s.free, pending := s.pending }
  requests : ∀ (t : Stamp) (g : Byte) (p : List Byte) (s : State), P s →
    P (reqStart t p s).state ∧ P (reqStop t p s).state ∧ P (reqRestart t p s).state ∧ P (reqSetTiming p s).state ∧
    P (reqSetCamera p s).state ∧ P (reqEnableCamera p s).state ∧ P (reqDisableCamera p s).state ∧
    P (reqResetCamera p s).state ∧ P (reqClearView p s).state ∧ P (reqLoadNodes p s).state ∧
    P (reqCloseView t g p s).state ∧ P (reqSelectView p s).state ∧ P (reqSelectViewNone s).state ∧
    P (reqSetZone p s).state ∧ P (reqSetBody p s).state ∧ P (reqSetFill p s).state ∧ P (reqSetHarmonise p s).state ∧
    P (reqSetGain p s).state ∧ P (reqClearFaults p s).state ∧ P (reqSetFaultPolicy p s).state ∧
    P (reqFetchNotices p s).state ∧ P (reqSetNoticePolicy p s).state
  events : ∀ s s', P s →
    (∀ t a, execTrainingComplete t a s = .next s' → P s') ∧ (∀ t, execFillComplete t s = .next s' → P s') ∧
    (∀ t, execScanComplete t s = .next s' → P s') ∧ (∀ t c p, execFrameOpen t c p s = .next s' → P s') ∧
    (∀ t c p, execInfo t c p s = .next s' → P s') ∧ (∀ t c p, execLine t c p s = .next s' → P s') ∧
    (∀ t c y p, execForeignPacket t c y p s = .next s' → P s') ∧ (∀ t c p, execFrameClose t c p s = .next s' → P s') ∧
    (∀ t c, execSilenceExpiry t c s = .next s' → P s') ∧ (∀ t c, execOpenRequest t c s = .next s' → P s') ∧
    (∀ t c, execAbandonRequest t c s = .next s' → P s') ∧ (∀ t c, execPublishRequest t c s = .next s' → P s') ∧
    (∀ t c, execDropReadyRequest t c s = .next s' → P s') ∧ (∀ t a, execArbiterGrant t a s = .next s' → P s') ∧
    (∀ t, execWriterTransferComplete t s = .next s' → P s') ∧
    (∀ t u, execCompositionTransferComplete t u s = .next s' → P s') ∧ (∀ t, execLineComplete t s = .next s' → P s') ∧
    (∀ t, execOutputFrameStart t s = .next s' → P s') ∧ (∀ t, execLinePeriodStart t s = .next s' → P s') ∧
    (∀ t, execFrameEnd t s = .next s' → P s')

/-- A blind property that every operation keeps is kept by every command. -/
theorem KeptByOps.exec {P : State → Prop} (o : KeptByOps P) {c : Instr} {s s' : State} (hP : P s)
    (h : exec c s = .next s') : P s' := by
  have b := o.blind
  have ar : ∀ t, P (s.arrive t) := fun t => b.clock s t hP
  obtain ⟨e1, e2, e3, e4, e5, e6, e7, e8, e9, e10, e11, e12, e13, e14, e15, e16, e17, e18, e19, e20⟩ := o.events s s' hP
  cases c <;> simp only [Machine.exec] at h
  case powerOn => cases h; exact o.powerOn _ _ s hP
  case trainingComplete => exact e1 _ _ h
  case fillComplete => exact e2 _ h
  case scanComplete => exact e3 _ h
  case frameOpen => exact e4 _ _ _ h
  case info => exact e5 _ _ _ h
  case line => exact e6 _ _ _ h
  case foreignPacket => exact e7 _ _ _ _ h
  case frameClose => exact e8 _ _ _ h
  case silenceExpiry => exact e9 _ _ h
  case openRequest => exact e10 _ _ h
  case abandonRequest => exact e11 _ _ h
  case publishRequest => exact e12 _ _ h
  case dropReadyRequest => exact e13 _ _ h
  case arbiterGrant => exact e14 _ _ h
  case writerTransferComplete => exact e15 _ h
  case compositionTransferComplete => exact e16 _ _ h
  case lineComplete => exact e17 _ h
  case outputFrameStart => exact e18 _ h
  case linePeriodStart => exact e19 _ h
  case frameEnd => exact e20 _ h
  case byteArrival => unfold execByteArrival at h; split at h <;> cases h; exact b.link _ _ (ar _); exact ar _
  case gapExpiry => unfold execGapExpiry at h; split at h <;> cases h; exact b.link _ _ (ar _); exact ar _
  case replySent => cases h; exact b.link _ _ (ar _)
  case unknownKind =>
    unfold execUnknownKind at h; split at h; cases h; exact ar _; exact b.serve h hP fun s h => h
  case identify => exact b.serve h hP fun s h => whenLength_keeps h h
  case getStatus => exact b.serve h hP fun s h => whenLength_keeps h h
  case getCamera =>
    exact b.serve h hP fun s h => whenReady_keeps h fun _ => whenLength_keeps h (withIndex_keeps h fun _ => h)
  case getFaults => exact b.serve h hP fun s h => whenReady_keeps h fun _ => whenLength_keeps h h
  case getHistory =>
    exact b.serve h hP fun s h => whenReady_keeps h fun _ => whenLength_keeps h (by simp only []; split <;> exact h)
  case readNodes =>
    exact b.serve h hP fun s h => whenReady_keeps h fun _ => whenLength_keeps h (by
      split
      · exact withIndex_keeps h fun _ => by simp only []; split <;> exact h
      · exact h)
  case selectView =>
    unfold execSelectView at h; split at h; cases h; exact ar _
    exact b.serve h hP fun s h => by have := o.requests 0 0 ‹_› s h; tauto
  case selectViewNone =>
    unfold execSelectViewNone at h; split at h
    · exact b.serve h hP fun s h => by have := o.requests 0 0 [] s h; tauto
    · cases h; exact ar _
  all_goals
    rename_i t g p
    exact b.serve h hP fun s h => by have := o.requests t g p s h; tauto

/-- A blind property that every operation keeps is kept by every step. -/
theorem KeptByOps.keeps {P : State → Prop} (o : KeptByOps P) : Keeps P := by
  intro s s' hP h
  unfold step at h
  split at h
  · cases h; exact o.blind.clock _ _ hP
  · exact o.exec (o.blind.queue _ _ hP) h

/-! ### The scan -/

/-- What SCAN_COMPLETE can do. -/
theorem scan_next {t : Stamp} {s s' : State} (he : execScanComplete t s = .next s') :
    s' = s.arrive t ∨ ∃ k, s.lc.closing = some k ∧ t = k.start + Config.scanTime ∧
      ((unwritten (s.vs.slots.get k.slot).nodes = [] ∧
          s' = ((s.arrive t).setVs (s.vs.setSlot k.slot ((s.vs.slots.get k.slot).enter .ready))).setLc
            (({ s.lc with closing := none } : LC).placeExecutor 0x22#8 k.tag .ok
              (cameras.flatMap fun c => leBytes 2 (cellCount (s.vs.slots.get k.slot).nodes c)))) ∨
        ∃ i rest, unwritten (s.vs.slots.get k.slot).nodes = i :: rest ∧
          s' = ((s.arrive t).setVs (s.vs.setSlot k.slot ((s.vs.slots.get k.slot).enter .loading))).setLc
            (({ s.lc with closing := none } : LC).placeExecutor 0x22#8 k.tag .badValue
              (leBytes 2 i ++ leBytes 2 (rest.length + 1)))) := by
  unfold execScanComplete at he
  split at he
  · cases he; exact .inl rfl
  · rename_i k hk
    split at he
    · rename_i ht
      simp only [] at he
      right; refine ⟨k, hk, ht, ?_⟩
      generalize unwritten _ = l at he ⊢
      cases l with
      | nil => cases he; exact .inl ⟨rfl, rfl⟩
      | cons i r => cases he; exact .inr ⟨i, r, rfl, rfl⟩
    · cases he; exact .inl rfl

/-! ### Writer transfers -/

theorem keyGet_clearErrors (ws : List Nat) (e : List (Nat × WordError)) (w : Nat) :
    keyGet (clearErrors e ws) w = if w ∈ ws then none else keyGet e w := by
  induction ws generalizing e with
  | nil => simp [clearErrors]
  | cons a r ih =>
    show keyGet (clearErrors (keyDel e a) r) w = _
    rw [ih]
    by_cases h : w ∈ r
    · simp [h]
    · by_cases ha : w = a
      · subst ha; simp [h, keyGet_keyDel_same]
      · simp [h, ha, keyGet_keyDel_other _ ha]

/-- The words that a run of bytes touches are those of its bytes. -/
theorem mem_wordsOf (a n w : Nat) : w ∈ wordsOf a n ↔ ∃ x, a ≤ x ∧ x < a + n ∧ x / 8 = w := by
  unfold wordsOf
  split
  · simp; omega
  · rename_i h
    simp
    constructor
    · rintro ⟨k, hk, rfl⟩
      by_cases h0 : k = 0
      · exact ⟨a, by omega, by omega, by omega⟩
      · exact ⟨8 * (k + a / 8), by omega, by omega, by omega⟩
    · rintro ⟨x, h1, h2, rfl⟩
      exact ⟨x / 8 - a / 8, by omega, by omega⟩

/-- Storing the first `n` bytes of the transfer in progress writes them and nothing else. -/
theorem FMC.store_wroteFirst (s : State) (c : Camera) (row off : Nat) (bytes : List Byte) (n : Nat)
    (ht : s.fmc.transfer = some (.writer c)) (hc : chunkOf (s.cr.get c) = some (row, off, bytes)) :
    s.wroteFirst n (s.fmc.store c row off (bytes.take n)) := by
  unfold FMC.store
  cases hf : Trio.find (s.fmc.rings.get c) SlotRecord.isFilling with
  | none =>
    have hi : s.inTransfer = none := by simp [State.inTransfer, ht, hc, hf]
    constructor <;> intros <;> simp_all [State.writes]
  | some i =>
    have hi : s.inTransfer = some (rowBase c i row + off, bytes) := by simp [State.inTransfer, ht, hc, hf]
    constructor
    · intro base bs j hb hj
      rw [hi] at hb; simp at hb; obtain ⟨rfl, rfl⟩ := hb
      simp only [memRead_memWriteBytes]
      simp; rw [dif_pos (by omega), List.getElem?_eq_getElem (by omega)]; rfl
    · intro a ha
      simp [State.writes, hi] at ha
      simp only [memRead_memWriteBytes]
      rw [dif_neg]; simp; omega
    · intro a ha
      simp [State.writes, hi] at ha
      simp only [keyGet_clearErrors]; rw [if_pos]; rw [mem_wordsOf]; exact ⟨a, by simp; omega⟩
    · intro w hw
      simp only [keyGet_clearErrors]; rw [if_neg]; rw [mem_wordsOf]; rintro ⟨x, h1, h2, h3⟩
      exact hw x (by simp [State.writes, hi]; simp at h2; omega) h3

/-! ### Arithmetic -/

theorem clampNat_eq {v lo hi : Nat} (h : lo ≤ hi) : clampNat v lo hi = max lo (min v hi) := by
  simp only [clampNat]; split <;> (try split) <;> omega

theorem clampInt_eq {v lo hi : Int} (h : lo ≤ hi) : clampInt v lo hi = max lo (min v hi) := by
  simp only [clampInt]; split <;> (try split) <;> omega

/-- The target ratio (R138) as a rounding: within half a step of 256 times the mean over the own sum, or 1,024. -/
theorem targetRatio_spec (own nbr : Nat) (h : 0 < own) :
    (2 * own * targetRatio own nbr ≤ 256 * (own + nbr) + own ∧
        256 * (own + nbr) + own < 2 * own * (targetRatio own nbr + 1) ∨
      targetRatio own nbr = 1024 ∧ 2 * own * 1024 ≤ 256 * (own + nbr) + own) ∧ targetRatio own nbr ≤ 1024 := by
  refine ⟨?_, Nat.min_le_left _ _⟩
  unfold targetRatio
  set q := (128 * (own + nbr) + own / 2) / own with hq
  have h1 : own * q ≤ 128 * (own + nbr) + own / 2 := Nat.mul_div_le _ _
  have h2 : 128 * (own + nbr) + own / 2 < own * (q + 1) := by
    have := Nat.lt_div_mul_add (a := 128 * (own + nbr) + own / 2) h
    rw [← hq] at this; nlinarith
  have e1 : 2 * own * q = 2 * (own * q) := by ring
  have e2 : 2 * own * (q + 1) = 2 * (own * (q + 1)) := by ring
  by_cases hm : q ≤ 1024
  · rw [Nat.min_eq_right hm]
    left
    rw [e1, e2]; omega
  · rw [Nat.min_eq_left (by omega)]
    right
    refine ⟨rfl, ?_⟩
    have : own * 1024 ≤ own * q := Nat.mul_le_mul_left _ (by omega)
    have e3 : 2 * own * 1024 = 2 * (own * 1024) := by ring
    rw [e3]; omega

end Sys2Proof.Machine
end

