-- ==== Sys2Proof/Tests/Slice0.lean ====
section
/-! SUPPORT. Tests: the refusals of WellFormed, the manual's worked examples, and for each obligation with hypotheses a
named state and operands that meet them. Expected values come from the manual's tables, cited at each test. -/
namespace Sys2Proof.Tests
open Sys2Proof.Machine

/-! ### Small states -/

/-- The state that a next outcome answers. -/
def after (o : Host.Outcome State Fault Refusal) : State :=
  match o with
  | .next s => s
  | _ => State.reset

/-- The part after a successful initialisation, with nothing configured. -/
def stopped : State :=
  { State.reset with pu := { PU.reset with run := .stopped }, fmc := { FMC.reset with init := .idle } }

/-- A request at the head of the inbox, the executor idle and the outbox empty. -/
def asking (s : State) (kind tag : Byte) (p : List Byte) : State :=
  { s with lc := { s.lc with inbox := [⟨kind, tag, p⟩], closing := none, outbox := [] } }

/-- Status and data of the reply that stands last in the outbox. -/
def reply (s : State) : Option (Status × List Byte) := s.lc.outbox.getLast?.map fun r => (r.status, r.data)

/-- The descriptor of the worked sequences (Chapter 11). -/
def descriptor : Descriptor := ⟨1280, 960, 512, 33333, 5, 5000, 8, 3, 2⟩

/-- Put the receiver of CAM1 into some condition. -/
def cam1 (s : State) (r : Receiver) : State := { s with cr := { s.cr with c1 := r } }

/-- A port of the worked sequences in a qualification state. -/
def port (q : Qual) : Receiver := { Receiver.reset with descriptor := some descriptor, qual := q, threshold := 5000 }

/-- An INFO record with a frame counter and a brightness index. -/
def infoRecord (n b : Half) : Info := ⟨n, b, 20#16, 3#8, 40#8⟩

/-- An open frame of CAM1 with its INFO and its next line. -/
def openFrame (n : Half) (next : Nat) : OpenFrame := ⟨1000000#32, some (infoRecord n 820#16), next, none⟩

/-- The composition set of a frame without a view. -/
def emptySet : CompSet :=
  { frameNo := 1, start := 1000#32, view := none, body := 0#4, zones := .all (.all .reset), fill := ⟨16#8, 128#8, 128#8⟩
    gains := .all 256, withheld := .all false, cams := .all .notQualified }

/-- RUNNING inside an output frame, the engine in some state at some line. -/
def inFrame (st : CompState) (line : Nat) (pixels : List Yuv) : State :=
  { stopped with
    pu := { PU.reset with run := .running, compare := 34333#32, frameNo := 1 }
    ce := { CE.reset with state := st, line := line, set := some emptySet, pixels := pixels }
    op := { OP.reset with idle := false, inFrame := true, origin := 1000#32 } }

/-- RUNNING between frames, the next one due at 1000. -/
def due : State :=
  { stopped with
    pu := { PU.reset with run := .running, compare := 1000#32 }
    op := { OP.reset with idle := false, origin := 0#32 } }

theorem asking_asks (s : State) (k g : Byte) (p : List Byte) : (asking s k g p).asks k g p [] := ⟨rfl,
  rfl, Nat.zero_lt_two⟩

theorem asking_ready (k g : Byte) (p : List Byte) : (asking stopped k g p).asksReady k g p [] :=
  ⟨asking_asks _ _ _ _, RunState.noConfusion, RunState.noConfusion⟩

/-! ### WellFormed refuses what cannot occur -/

theorem test_wf_long_payload : (Instr.identify 0#32 1#8 (List.replicate 513 0#8)).wf = false := by decide +kernel

theorem test_wf_longest_payload : (Instr.identify 0#32 1#8 (List.replicate 512 0#8)).wf = true := by decide +kernel

theorem test_wf_catalogue_kind : (Instr.unknownKind 0#32 0x10#8 1#8 []).wf = false := by decide

theorem test_wf_unknown_kind_payload : (Instr.unknownKind 0#32 0x77#8 1#8 (List.replicate 513 0#8)).wf = false := by
  decide +kernel

theorem test_wf_select_none : (Instr.selectView 0#32 1#8 [0xFF#8]).wf = false := by decide

theorem test_wf_select_none_other : (Instr.selectViewNone 0#32 1#8 [2#8]).wf = false := by decide

theorem test_wf_known_type : (Instr.foreignPacket 0#32 0 0x04#8 []).wf = false := by decide

theorem test_wf_upset_address : (Instr.compositionTransferComplete 0#32 [(16777216, .single)]).wf = false := by decide

/-! ### Values from the manual -/

/-- "Over the nine ASCII bytes of the digits 1 to 9, this CRC gives 29B1h" (R54). -/
theorem test_crc : crc [0x31#8, 0x32#8, 0x33#8, 0x34#8, 0x35#8, 0x36#8, 0x37#8, 0x38#8, 0x39#8] = 0x29B1#16 := by
  decide +kernel

/-- The five rows of R71. -/
theorem test_relief :
    reliefDue (some 800#16) 1050#16 = true ∧ reliefDue (some 800#16) 980#16 = false ∧
    reliefDue (some 800#16) 600#16 = false ∧ reliefDue (some 0#16) 5#16 = true ∧ reliefDue (some 0#16) 0#16 =
      false := by
  decide

/-- The five rows of R84. -/
theorem test_silence_threshold :
    silenceThreshold descriptor = 5000 ∧ silenceThreshold { descriptor with silenceLines := 300 } = 9600 ∧
    silenceThreshold { descriptor with silenceLines := 1280, height := 720 } = 23040 ∧
    silenceThreshold { descriptor with silenceUs := 1000, silenceLines := 3, height := 240, linePeriod := 1001 } =
      1000 ∧
    silenceThreshold { descriptor with silenceUs := 200000, silenceLines := 1280, height := 1280, linePeriod := 65535 } =
      5242800 := by decide

/-- The allowed open interval of 3.7 is 31,667..34,999. -/
theorem test_period_check :
    periodFails (some descriptor) (some 0#32) 31666#32 = true ∧ periodFails (some descriptor) (some 0#32) 31667#32 =
      false ∧
    periodFails (some descriptor) (some 0#32) 34999#32 = false ∧
      periodFails (some descriptor) (some 0#32) 35000#32 = true ∧
    periodFails (some descriptor) none 35000#32 = false := by decide

/-- Stage C of the worked pixel (1.5): U 20,276, V 13,128, w0 40, w1 24. -/
theorem test_worked_interpolation :
    cornerFactors 4 5 = ⟨132, 44, 60, 20⟩ ∧ interpolate ⟨132, 44, 60, 20⟩ ⟨20000, 21024, 20064, 21088⟩ = 20276 ∧
    interpolate ⟨132, 44, 60, 20⟩ ⟨12800, 12832, 13824, 13856⟩ = 13128 ∧
    interpolateWeight ⟨132, 44, 60, 20⟩ ⟨42, 40, 38, 36⟩ = 40 ∧
    interpolateWeight ⟨132, 44, 60, 20⟩ ⟨22, 24, 26, 28⟩ = 24 ∧ cornerIndices 6 2 = ⟨98, 99, 144, 145⟩ := by decide

/-- Stages E and F of the worked pixel (1.5), and the clamped taps of 1.6. -/
theorem test_worked_sample :
    taps 20276 13128 1280 960 = ⟨(316, 205), (317, 205), (316, 206), (317, 206)⟩ ∧
    tapFactors 20276 13128 = ⟨672, 2912, 96, 416⟩ ∧ bilinear ⟨672, 2912, 96, 416⟩ ⟨120#8, 124#8, 118#8, 126#8⟩ = 123#8 ∧
    bilinear ⟨672, 2912, 96, 416⟩ ⟨110#8, 110#8, 114#8, 114#8⟩ = 111#8 ∧
    bilinear ⟨672, 2912, 96, 416⟩ ⟨140#8, 140#8, 136#8, 136#8⟩ = 140#8 ∧ gained 123#8 260 = 125 ∧ gained 126#8 266 =
      131 ∧
    taps 81856 30000 1280 960 = ⟨(1279, 468), (1279, 468), (1279, 469), (1279, 469)⟩ ∧
    bilinear (tapFactors 81856 30000) ⟨200#8, 200#8, 180#8, 180#8⟩ = 185#8 := by decide

/-- Stages G and H of the worked pixel (1.5). -/
theorem test_worked_blend :
    blend ⟨16#8, 128#8, 128#8⟩ [⟨0, 40, 125, 111, 140⟩, ⟨1, 24, 131, 116, 134⟩] = ⟨127#8, 113#8, 138#8⟩ ∧
    packLine [⟨127#8, 113#8, 138#8⟩, ⟨128#8, 115#8, 137#8⟩] = [⟨127#8, 128#8, 114#8, 138#8⟩] := by decide

/-- The negative coordinates and the vanishing weight of 1.6. -/
theorem test_limits :
    interpolate (cornerFactors 8 0) ⟨-1, 0, 0, 0⟩ = 0 ∧ interpolate (cornerFactors 8 0) ⟨-100, -37, 0, 0⟩ = -68 ∧
    validSample (-68) 0 1280 960 = false ∧ validSample 81856 30000 1280 960 = true ∧
    validSample 81857 30000 1280 960 = false ∧ interpolateWeight (cornerFactors 1 1) ⟨0, 0, 0, 1⟩ = 0 := by decide

/-- The frame totals of the worked gain update (7.7). -/
def workedTotals : Totals :=
  ⟨⟨⟨5000, 500000, 550000⟩, ⟨6000, 660000, 540000⟩, ⟨800, 72000, 96000⟩, ⟨4000, 440000, 400000⟩⟩, .all 0⟩

/-- The worked gain update (7.7): gains 260, 240, 384, 252, and all relief flags clear. -/
theorem test_worked_gains :
    ({ HU.reset with gains := ⟨256, 256, 382, 256⟩, relief := ⟨false, true, false, false⟩ }.update 1 workedTotals).gains =
      ⟨260, 240, 384, 252⟩ ∧
    ({ HU.reset with gains := ⟨256, 256, 382, 256⟩, relief := ⟨false, true, false, false⟩ }.update 1 workedTotals).relief =
      .all false := by decide

/-- Target ratios and limited moves of 7.7. -/
theorem test_worked_moves :
    (({ HU.reset with gains := ⟨256, 256, 382, 256⟩, relief := ⟨false, true, false, false⟩ }.update 1
      workedTotals).last.map fun (u : UpdateRecord) => (u.cams.map CamUpdate.move)) =
      some ⟨some (269, 4), some (238, -16), some (284, 4), some (244, -4)⟩ := by decide

/-- The queue of 9.9 after steps 1 to 6, and what step 7 leaves: VIEW_TAKEN alone, the line inactive. -/
def workedQueue : NQ :=
  (((((NQ.reset.raise .viewTaken (.view 2) 2 4100000#32).raise .stale (.cam 3) 0 4133333#32).raise .fault (.cam 0) 8
    4140000#32).raise .qualificationLost (.cam 0) 0 4140000#32).raise .stale (.cam 3) 0 4166666#32).raise .stale (.cam 3) 0
    4199999#32

theorem test_worked_queue :
    workedQueue.queue.map (fun r => (r.kind, r.count)) =
      [(.fault, 1), (.qualificationLost, 1), (.stale, 3), (.viewTaken, 1)] ∧
    workedQueue.attention = true ∧ workedQueue.level = false ∧ (workedQueue.fetch 3).queue.length = 1 ∧
    (workedQueue.fetch 3).attention = false ∧ (workedQueue.fetch 3).level = true := by decide

/-- Thirty FAULT records, then VIEW_TAKEN of VIEW0 and of VIEW1 (9.10). -/
def fullQueue : NQ :=
  { NQ.reset with
    queue := (List.range 30).map (fun k => ⟨.fault, .cam 0, k, 0#32, 0#32, 1, 2⟩) ++
      [⟨.viewTaken, .view 0, 0, 0#32, 0#32, 1, 0⟩, ⟨.viewTaken, .view 1, 1, 0#32, 0#32, 1, 0⟩]
    attention := true }

/-- Steps 1 and 2 of 9.10. -/
theorem test_full_queue :
    ((fullQueue.raise .stale (.cam 1) 0 9#32).queue.drop 30).map (fun r => (r.kind, r.source)) =
      [(.stale, .cam 1), (.viewTaken, .view 0)] ∧
    (fullQueue.raise .stale (.cam 1) 0 9#32).lost = true ∧
    (fullQueue.raise .viewTaken (.view 3) 3 9#32).queue = fullQueue.queue ∧
    (fullQueue.raise .viewTaken (.view 3) 3 9#32).lost = true := by decide +kernel

/-- The ring of CAM1 through steps 1, 2 and 3 of 5.6. -/
theorem test_worked_ring :
    let r0 : Ring := ⟨.held 0#32 999000#32 100#16 false false, .ready 1000000#32 1033000#32 101#16, .free⟩
    let r1 := ringOpen r0 1035000#32
    let r2 := ringTake r1 true 1040000#32 50000
    r1.s2 = .filling 1035000#32 ∧ r2.2 = .taken false 1 101#16 7000#32 ∧
    r2.1 = ⟨.free, .held 1000000#32 1033000#32 101#16 false false, .filling 1035000#32⟩ ∧
    ringPublish r2.1 1066000#32 102#16 =
      ⟨.free, .held 1000000#32 1033000#32 101#16 false false, .ready 1035000#32 1066000#32 102#16⟩ := by decide

/-- Steps 11 and 12 of 5.6: REPEAT at age 34,332, STALE at age 67,665. -/
theorem test_repeat_and_stale :
    let r : Ring := ⟨.free, .held 1108666#32 1139000#32 104#16 false false, .free⟩
    (ringTake r true 1173332#32 50000).2 = .taken true 1 104#16 34332#32 ∧
    (ringTake r true 1206665#32 50000) = (.all .free, .stale (some 67665#32)) := by decide

/-- A poisoned HELD slot is no candidate (R107). -/
theorem test_poisoned_no_candidate :
    ringTake ⟨.held 0#32 9#32 1#16 true false, .free, .free⟩ true 10#32 50000 = (.all .free, .stale none) := by decide

/-! ### Commands, one step each -/

/-- Power-on: STARTUP, timebase 0, straps sampled (R111, R167). -/
theorem test_power_on :
    (after (exec (.powerOn true false) stopped)).pu.run = .startup ∧
      (after (exec (.powerOn true false) stopped)).lc.rate1 = true ∧
    (after (exec (.powerOn true false) stopped)).fmc.init = .training 0#32 := by decide

/-- Training that the DRAM does not answer: MEMORY_FAULT, its notice of priority 3, the line active (R109). -/
theorem test_training_fails :
    (after (exec (.trainingComplete 1000#32 false) State.reset)).pu.run = .memoryFault ∧
    (after (exec (.trainingComplete 1000#32 false) State.reset)).nq.queue =
      [⟨.memoryFault, .part, 0, 1000#32, 1000#32, 1, 3⟩] ∧
    (after (exec (.trainingComplete 1000#32 false) State.reset)).nq.attention = true := by decide

/-- Row 1 of 11.1: at 150,000 the part is STOPPED with MEMORY_READY/PART of priority 3. -/
theorem test_fill :
    let s := { State.reset with fmc := { FMC.reset with init := .filling 0#32 } }
    (after (exec (.fillComplete 150000#32) s)).pu.run = .stopped ∧
    (after (exec (.fillComplete 150000#32) s)).nq.queue = [⟨.memoryReady, .part, 0, 150000#32, 150000#32, 1, 3⟩] ∧
    (after (exec (.fillComplete 149999#32) s)).pu.run = .startup := by decide

/-- An IDENTIFY frame, C3h 00h 00h 01h 07h and its CRC, reaches the inbox byte by byte (R168, R169). -/
theorem test_bytes :
    (after (execAll ((requestBytes ⟨0x01#8, 7#8, []⟩).map fun b => .byteArrival 9#32 b true) stopped)).lc.inbox =
      [⟨0x01#8, 7#8, []⟩] ∧
    (requestBytes ⟨0x01#8, 7#8, []⟩).take 5 = [0xC3#8, 0#8, 0#8, 1#8, 7#8] ∧
    (after (exec (.byteArrival 9#32 0xC3#8 false) stopped)).lc.framer = .hunt := by decide +kernel

/-- R167: the sync byte C3h on the wire, and the same levels as a character of RXD. -/
theorem test_character :
    characterLevels 0xC3#8 = [false, true, true, false, false, false, false, true, true, true] ∧
    (stopped.characterArrives 9#32 (characterLevels 0xC3#8)).pending = [.byteArrival 9#32 0xC3#8 true] ∧
    characterCommand 9#32 [false, true, false, false, false, false, false, false, true, false] =
      some (.byteArrival 9#32 0x81#8 false) ∧
    byteTimeNs true false = 2500 := by decide

/-- LEN above 512 drains, and the gap answers BAD_LENGTH (R170). -/
theorem test_drain :
    let s := after (execAll ([0xC3#8, 1#8, 2#8, 0x77#8].map fun b => .byteArrival 9#32 b true) stopped)
    s.lc.framer = .drain [0x77#8] ∧
    (after (exec (.gapExpiry 109#32) s)).lc.outbox = [⟨0x77#8, 0#8, .badLength, [], false⟩] := by decide +kernel

/-- The reply that finishes sending leaves the outbox (R173); a reply frame begins 3Ch, LEN, KIND + 80h, TAG, STATUS. -/
theorem test_reply :
    (after (exec (.replySent 5#32) { stopped with lc := { LC.reset with outbox := [⟨1#8, 2#8, .ok, [], true⟩] } })).lc.outbox =
      [] ∧
    (replyBytes ⟨0x01#8, 2#8, .wrongState, [9#8], true⟩).take 7 = [0x3C#8, 1#8, 0#8, 0x81#8, 2#8, 6#8, 9#8] := by
  decide +kernel

theorem test_unknown_kind :
    reply (after (exec (.unknownKind 5#32 0x77#8 1#8 []) (asking stopped 0x77#8 1#8 []))) =
      some (.unknownKind, []) := by
  decide

/-- The reports have the sizes that the catalogue gives: 18, 347, 84, 49 bytes (R174). -/
theorem test_report_sizes :
    identityBytes.length = 18 ∧ (statusBytes stopped).length = 347 ∧
    (cameraBytes (port .locked) 256 false).length = 84 ∧ (faultBytes FU.reset).length = 49 := by decide +kernel

theorem test_identify :
    (reply (after (exec (.identify 5#32 1#8 []) (asking State.reset 0x01#8 1#8 [])))).map Prod.fst =
      some .ok := by decide

theorem test_get_status :
    (reply (after (exec (.getStatus 5#32 1#8 []) (asking State.reset 0x02#8 1#8 [])))).map (fun r => r.2.take 5) =
      some [0#8, 5#8, 0#8, 0#8, 0#8] := by decide +kernel

/-- Row 8 of 11.1: the compare value is 355,500 + 1,000. -/
theorem test_start :
    (after (exec (.start 355500#32 1#8 []) (asking stopped 0x03#8 1#8 []))).pu.compare = 356500#32 ∧
    (after (exec (.start 355500#32 1#8 []) (asking stopped 0x03#8 1#8 []))).pu.run = .running := by decide

/-- A STOP during a frame waits for the frame end; between frames the part is STOPPED at once (R117). -/
theorem test_stop :
    (after (exec (.stop 5#32 1#8 []) (asking (inFrame .finished 0 []) 0x04#8 1#8 []))).pu.run = .stopping ∧
    (after (exec (.stop 5#32 1#8 []) (asking due 0x04#8 1#8 []))).pu.run = .stopped := by decide

theorem test_restart_in_memory_fault :
    (after (exec (.restart 77#32 1#8 []) (asking { stopped with pu := { PU.reset with run := .memoryFault } } 0x05#8 1#8
      []))).fmc.init = .training 77#32 := by decide

/-- SET_TIMING(10, 300000) is ADJUSTED to 31,488 and 200,000 (R114). -/
theorem test_set_timing :
    let p := leBytes 4 10 ++ leBytes 4 300000
    reply (after (exec (.setTiming 5#32 1#8 p) (asking stopped 0x06#8 1#8 p))) =
      some (.adjusted, leBytes 4 31488 ++ leBytes 4 200000) := by decide

/-- The descriptor of the worked sequences in SET_CAMERA's 20 bytes (R174). -/
def descriptorBytes : List Byte :=
  [1#8, 0x00#8, 0x05#8, 0xC0#8, 0x03#8, 0x00#8, 0x02#8, 0x35#8, 0x82#8, 0#8, 0#8, 5#8, 0x88#8, 0x13#8, 0#8, 0#8, 8#8, 0#8,
    3#8, 2#8]

theorem test_set_camera :
    (after (exec (.setCamera 5#32 1#8 descriptorBytes) (asking stopped 0x10#8 1#8 descriptorBytes))).cr.c1.descriptor =
      some descriptor := by decide

theorem test_enable_camera :
    (after (exec (.enableCamera 5#32 1#8 [1#8]) (asking (cam1 stopped (port .disabled)) 0x11#8 1#8 [1#8]))).cr.c1.qual =
      .noSignal ∧
    reply (after (exec (.enableCamera 5#32 1#8 [0#8]) (asking stopped 0x11#8 1#8 [0#8]))) = some (.wrongState, []) := by
  decide

/-- A disabled port drops its open frame and counts it; its HELD slot is marked released (R87, R101). -/
theorem test_disable_camera :
    let s := cam1 stopped { port .locked with openFrame := some (openFrame 7#16 3), fifo := [.abandonReq] }
    let s := { s with fmc := { s.fmc with
      rings := s.fmc.rings.set 1 ⟨.held 1#32 2#32 6#16 false false, .filling 3#32, .ready 4#32 5#32 5#16⟩ } }
    let r := after (exec (.disableCamera 5#32 1#8 [1#8]) (asking s 0x12#8 1#8 [1#8]))
    r.cr.c1.qual = .disabled ∧ r.cr.c1.counters.abandoned = 1 ∧ r.cr.c1.fifo = [] ∧
    r.fmc.rings.c1 = ⟨.held 1#32 2#32 6#16 false true, .free, .free⟩ := by decide

/-- A reset port stays enabled, with counters and faults clear (R88, R157). -/
theorem test_reset_camera :
    let s := (cam1 stopped { port .locked with openFrame := some (openFrame 7#16 3) }).handFault
      ⟨.cam 1, .skip, 3#32, some 7#16, none, none⟩
    let r := after (exec (.resetCamera 5#32 1#8 [1#8]) (asking s 0x13#8 1#8 [1#8]))
    s.fu.sticky.c1.skip = true ∧ r.cr.c1.qual = .noSignal ∧ r.cr.c1.counters.abandoned = 0 ∧
    r.fu.sticky.c1.skip = false := by decide

theorem test_get_camera :
    (reply (after (exec (.getCamera 5#32 1#8 [1#8]) (asking (cam1 stopped (port .holdover)) 0x14#8 1#8 [1#8])))).map
      (fun r => (r.1, (r.2.drop 20).take 1)) = some (.ok, [4#8]) := by decide +kernel

/-- One node record: CAM0 at (-1, 2) with weight 64, the other cameras absent with weight 3 (R34, R179). -/
def nodeBytes : List Byte :=
  [0xFF#8, 0xFF#8, 0xFF#8, 2#8, 0#8, 0#8, 0xC0#8, 9#8, 0#8, 0#8, 9#8, 0#8, 0#8, 3#8, 9#8, 0#8, 0#8, 9#8, 0#8, 0#8, 3#8, 9#8,
    0#8, 0#8, 9#8, 0#8, 0#8, 3#8]

theorem test_load_nodes :
    let p := [2#8, 0xF5#8, 0x0A#8, 1#8] ++ nodeBytes
    (after (exec (.loadNodes 5#32 1#8 p) (asking stopped 0x21#8 1#8 p))).vs.slots.c2 =
      ⟨.loading, [(2805, ⟨⟨some (-1, 2), 64⟩, ⟨none, 3⟩, ⟨none, 3⟩, ⟨none, 3⟩⟩)]⟩ := by decide +kernel

theorem test_load_nodes_beyond :
    let p := [2#8, 0xF6#8, 0x0A#8, 1#8] ++ nodeBytes
    reply (after (exec (.loadNodes 5#32 1#8 p) (asking stopped 0x21#8 1#8 p))) =
      some (.badValue, []) := by decide +kernel

/-- A view store whose slot 2 is LOADING with node 0 written. -/
def loading : State :=
  { stopped with vs := { VS.reset with slots := (Quad.all .reset).set 2 ⟨.loading, [(0, blankNode)]⟩ } }

theorem test_clear_view :
    (after (exec (.clearView 5#32 1#8 [2#8]) (asking loading 0x20#8 1#8 [2#8]))).vs.slots.c2 = ⟨.empty, []⟩ := by decide

theorem test_close_view :
    (after (exec (.closeView 5#32 1#8 [2#8]) (asking loading 0x22#8 1#8 [2#8]))).vs.slots.c2.state = .closing ∧
    (after (exec (.closeView 5#32 1#8 [2#8]) (asking loading 0x22#8 1#8 [2#8]))).lc.closing = some ⟨1#8, 2, 5#32⟩ := by
  decide

/-- A scan that finds nodes 1 to 2,805 unwritten: the lowest is 1, and there are 2,805 of them (R38). -/
theorem test_scan :
    let s := after (exec (.closeView 5#32 1#8 [2#8]) (asking loading 0x22#8 1#8 [2#8]))
    reply (after (exec (.scanComplete 3005#32) s)) = some (.badValue, [1#8, 0#8, 0xF5#8, 0x0A#8]) := by decide +kernel

/-- Rows 11 and 15 of 2.6: selecting a READY slot makes it PENDING, selecting the ACTIVE one drops what is pending. -/
def views : State :=
  { stopped with
    vs :=
      { VS.reset with
        slots := ⟨⟨.active, []⟩, ⟨.pending, []⟩, ⟨.ready, []⟩, ⟨.empty, []⟩⟩, selection := .slot 1 } }

theorem test_select_view :
    (after (exec (.selectView 5#32 1#8 [2#8]) (asking views 0x23#8 1#8 [2#8]))).vs.slots.map ViewSlot.state =
      ⟨.active, .ready, .pending, .empty⟩ ∧
    (after (exec (.selectView 5#32 1#8 [0#8]) (asking views 0x23#8 1#8 [0#8]))).vs.selection = .nonePending := by decide

theorem test_select_view_none :
    (after (exec (.selectViewNone 5#32 1#8 [0xFF#8]) (asking views 0x23#8 1#8 [0xFF#8]))).vs.selection = .withdraw := by
  decide

theorem test_read_nodes :
    reply (after (exec (.readNodes 5#32 1#8 [2#8, 0#8, 0#8, 2#8]) (asking loading 0x24#8 1#8 [2#8, 0#8, 0#8, 2#8]))) =
      some (.ok, 1#8 :: List.replicate 57 0#8) := by decide +kernel

/-- CAM2's zone 0 of 2.7: columns 10..34, rows 52..59, condition 1, active when set. -/
theorem test_set_zone :
    let p := [2#8, 0#8, 1#8, 10#8, 34#8, 52#8, 59#8, 1#8, 0#8]
    (after (exec (.setZone 5#32 1#8 p) (asking stopped 0x28#8 1#8 p))).vs.zones.c2.c0 =
      ⟨true, 10, 34, 52, 59, 1, false⟩ := by decide

/-- SET_BODY(2) sets BC1 alone (2.7). -/
theorem test_set_body :
    (after (exec (.setBody 5#32 1#8 [2#8]) (asking stopped 0x29#8 1#8 [2#8]))).vs.pendingBody = 2#4 ∧
    reply (after (exec (.setBody 5#32 1#8 [16#8]) (asking stopped 0x29#8 1#8 [16#8]))) =
      some (.badValue, []) := by decide

theorem test_set_fill :
    (after (exec (.setFill 5#32 1#8 [1#8, 2#8, 3#8]) (asking stopped 0x2A#8 1#8 [1#8, 2#8, 3#8]))).vs.fill =
      ⟨1#8, 2#8, 3#8⟩ := by decide

/-- Gains of 256 are clamped into the new range 300..400, and the step limit 40 to 32 (R142). -/
theorem test_set_harmonise :
    let p := [1#8, 40#8] ++ leBytes 2 300 ++ leBytes 2 400 ++ leBytes 2 1024 ++ [0#8]
    let s := after (exec (.setHarmonise 5#32 1#8 p) (asking stopped 0x30#8 1#8 p))
    s.hu.gains = .all 300 ∧ s.hu.settings = ⟨true, 32, 300, 400, 1024, false⟩ ∧ (reply s).map Prod.fst =
      some .adjusted := by
  decide

theorem test_set_gain :
    let p := 1#8 :: leBytes 2 1000
    reply (after (exec (.setGain 5#32 1#8 p) (asking stopped 0x31#8 1#8 p))) =
      some (.adjusted, leBytes 2 384) := by decide

/-- Step 2 of 8.8: an UNDERRUN at line 300 fills the first-fault record and raises FAULT/OUTPUT/10. -/
theorem test_underrun_recorded :
    let s := stopped.handFault ⟨.output, .underrun, 2010000#32, none, some 300, none⟩
    s.fu.first = some ⟨⟨.output, .underrun, 2010000#32, none, some 300, none⟩, false⟩ ∧ s.fu.stickyOut.underrun = true ∧
    s.nq.queue = [⟨.fault, .output, 10, 2010000#32, 2010000#32, 1, 2⟩] := by decide

theorem test_get_faults :
    (reply (after (exec (.getFaults 5#32 1#8 []) (asking (stopped.handFault ⟨.cam 0, .poison, 9#32, none, none, none⟩)
      0x38#8 1#8 [])))).map (fun r => r.2.take 2) = some [0x40#8, 0#8] := by decide +kernel

/-- CLEAR_FAULTS(1, 64, yes) of 11.4 clears POISON of CAM0 and the record. -/
theorem test_clear_faults :
    let p := [1#8, 64#8, 0#8, 1#8]
    let s := after (exec (.clearFaults 5#32 1#8 p)
      (asking (stopped.handFault ⟨.cam 0, .poison, 9#32, none, none, none⟩) 0x39#8 1#8 p))
    s.fu.sticky.c0 = .all false ∧ s.fu.first = none := by decide

/-- Step 8 of 8.8, and a fixed severity (R150). -/
theorem test_set_fault_policy :
    (after (exec (.setFaultPolicy 5#32 1#8 [5#8, 0#8, 1#8]) (asking stopped 0x3A#8 1#8 [5#8, 0#8, 1#8]))).fu.policy.overflow =
      ⟨false, true⟩ ∧
    reply (after (exec (.setFaultPolicy 5#32 1#8 [8#8, 0#8, 1#8]) (asking stopped 0x3A#8 1#8 [8#8, 0#8, 1#8]))) =
      some (.badValue, []) := by decide

/-- Step 7 of 9.9. -/
theorem test_fetch_notices :
    let s := after (exec (.fetchNotices 5#32 1#8 [3#8]) (asking { stopped with nq := workedQueue } 0x40#8 1#8 [3#8]))
    s.nq.queue.length = 1 ∧ (reply s).map (fun r => (r.2.take 3, r.2.length)) = some ([3#8, 0#8, 1#8], 42) := by
  decide +kernel

theorem test_set_notice_policy :
    let p := List.replicate 18 1#8 ++ [3#8, 1#8]
    let s := after (exec (.setNoticePolicy 5#32 1#8 p) (asking stopped 0x41#8 1#8 p))
    s.nq.threshold = 3 ∧ s.nq.activeHigh = true ∧ s.nq.policy.stale = ⟨true, 1⟩ ∧ s.nq.level =
      false := by decide +kernel

theorem test_get_history :
    reply (after (exec (.getHistory 5#32 1#8 [0#8, 4#8]) (asking stopped 0x42#8 1#8 [0#8, 4#8]))) =
      some (.ok, [0#8]) := by
  decide

/-- Step 7 of 4.6: a FRAME_OPEN in NO_SIGNAL starts acquisition; the period check is skipped. -/
theorem test_frame_open :
    let r := (after (exec (.frameOpen 3400000#32 1 []) (cam1 stopped (port .noSignal)))).cr.c1
    r.qual = .acquiring ∧ r.openFrame = some ⟨3400000#32, none, 0, none⟩ ∧ r.fifo = [.openReq] ∧
    r.lastArrival = 3400000#32 := by decide

/-- A FRAME_OPEN inside an open frame closes it as bad for STRUCTURE with its next line (R58). -/
theorem test_frame_open_inside :
    let s := after (exec (.frameOpen 1033333#32 1 [])
      (cam1 stopped { port .locked with openFrame := some (openFrame 7#16 517), prevOpen := some 1000000#32 }))
    s.cr.c1.qual = .holdover ∧ s.cr.c1.counters.badStructure = 1 ∧ s.cr.c1.openFrame =
      some ⟨1033333#32, none, 0, none⟩ ∧
    s.fu.first = some ⟨⟨.cam 1, .struct, 1033333#32, some 7#16, some 517, none⟩, false⟩ := by decide

/-- Frame A's INFO of 3.7, its CRC over the eight bytes behind it. -/
theorem test_info :
    let p := [0x89#8, 0x13#8, 0x34#8, 0x03#8, 20#8, 0#8, 3#8, 40#8]
    let s := cam1 stopped { port .locked with openFrame := some ⟨1000000#32, none, 0, none⟩ }
    ((after (exec (.info 1000040#32 1 (p ++ leBytes 2 (crc p).toNat)) s)).cr.c1.openFrame.bind OpenFrame.info) =
      some (infoRecord 5001#16 820#16) ∧
    ((after (exec (.info 1000040#32 1 (p ++ [0#8, 0#8])) s)).cr.c1.openFrame.bind OpenFrame.failure) =
      some ⟨.infoCrc, 1000040#32, none⟩ := by decide +kernel

/-- Step 7 of 3.7: LINE 311 with 2,558 sample bytes fails LINE_LENGTH. -/
theorem test_line_short :
    let s := cam1 stopped { port .locked with openFrame := some (openFrame 5002#16 311) }
    ((after (exec (.line 1043300#32 1 (leBytes 2 311 ++ List.replicate 2558 0#8)) s)).cr.c1.openFrame.bind
      OpenFrame.failure) = some ⟨.lineLength, 1043300#32, some 311⟩ := by decide +kernel

theorem test_line_placed :
    let s := cam1 stopped { port .locked with openFrame := some (openFrame 5002#16 311) }
    (after (exec (.line 1043300#32 1 (leBytes 2 311 ++ List.replicate 2560 0#8)) s)).cr.c1.fifo =
      [.line 311 (List.replicate 2560 0#8) 0] := by decide +kernel

theorem test_foreign_packet :
    let s := cam1 stopped { port .locked with openFrame := some (openFrame 5002#16 311) }
    ((after (exec (.foreignPacket 9#32 1 0x20#8 []) s)).cr.c1.openFrame.bind OpenFrame.failure) =
      some ⟨.struct, 9#32, some 311⟩ := by decide

/-- R51: the bytes of packets on a port. -/
theorem test_packets :
    packetCommand 9#32 1 [0x01#8, 7#8] = some (.frameOpen 9#32 1 [7#8]) ∧
    packetCommand 9#32 1 [0x02#8] = some (.frameClose 9#32 1 []) ∧
    packetCommand 9#32 1 [0x04#8, 5#8] = some (.info 9#32 1 [5#8]) ∧
    packetCommand 9#32 1 [0x08#8, 5#8] = some (.line 9#32 1 [5#8]) ∧
    (stopped.packetArrives 9#32 1 [0x03#8]).pending = [.foreignPacket 9#32 1 0x03#8 []] := by decide

/-- Step 4 of 3.7: frame A closes good. -/
theorem test_frame_close_good :
    let s := after (exec (.frameClose 1030900#32 1 []) (cam1 stopped
      { port .locked with openFrame := some (openFrame 5001#16 960), lastPublished := some 5000#16, bprev := some 790#16 }))
    s.cr.c1.fifo = [.publishReq 1030900#32 5001#16] ∧ s.cr.c1.lastPublished = some 5001#16 ∧ s.hu.relief.c1 = false ∧
    s.fu.first = none := by decide

/-- Step 13 of 3.7: frame C in HOLDOVER is published with a SKIP, its relief flag set. -/
theorem test_frame_close_skip :
    let s := after (exec (.frameClose 1097567#32 1 []) (cam1 stopped
      { port .holdover with
        badRun := 1, openFrame := some ⟨1066667#32, some (infoRecord 5003#16 1100#16), 960, none⟩
        lastPublished := some 5001#16, bprev := some 820#16 }))
    s.cr.c1.goodRun = 1 ∧ s.hu.relief.c1 = true ∧
    s.fu.first = some ⟨⟨.cam 1, .skip, 1097567#32, some 5003#16, none, none⟩, false⟩ := by decide

/-- 4.7: the silence expiry of a LOCKED port with an open frame. -/
theorem test_silence :
    let s := after (exec (.silenceExpiry 5015000#32 1) (cam1 stopped
      { port .locked with openFrame := some (openFrame 4410#16 301), lastArrival := 5010000#32 }))
    s.cr.c1.qual = .noSignal ∧ s.cr.c1.fifo = [.abandonReq, .dropReadyReq] ∧
    s.nq.queue.map (fun r => (r.kind, r.detail)) = [(.fault, 8), (.qualificationLost, 0)] ∧
    s.fu.first = some ⟨⟨.cam 1, .silence, 5015000#32, some 4410#16, none, none⟩, false⟩ := by decide

/-- Ring requests of CAM1 with a FIFO and a ring. -/
def ringOf (fifo : List FifoEntry) (ring : Ring) : State :=
  let s := cam1 stopped { port .locked with fifo := fifo }
  { s with fmc := { s.fmc with rings := s.fmc.rings.set 1 ring } }

/-- Step 1 of 5.6. -/
theorem test_open_request :
    (after (exec (.openRequest 1035000#32 1) (ringOf [.openReq]
      ⟨.held 0#32 999000#32 100#16 false false, .ready 1000000#32 1033000#32 101#16, .free⟩))).fmc.rings.c1.s2 =
      .filling 1035000#32 := by decide

theorem test_abandon_request :
    (after (exec (.abandonRequest 9#32 1) (ringOf [.abandonReq] ⟨.filling 1#32, .free, .ready 1#32 2#32 3#16⟩))).fmc.rings.c1 =
      ⟨.free, .free, .ready 1#32 2#32 3#16⟩ := by decide

theorem test_publish_request :
    (after (exec (.publishRequest 9#32 1) (ringOf [.publishReq 8#32 4#16]
      ⟨.filling 1#32, .free, .ready 1#32 2#32 3#16⟩))).fmc.rings.c1 = ⟨.ready 1#32 8#32 4#16, .free, .free⟩ := by decide

theorem test_drop_ready_request :
    (after (exec (.dropReadyRequest 9#32 1) (ringOf [.dropReadyReq]
      ⟨.filling 1#32, .free, .ready 1#32 2#32 3#16⟩))).fmc.rings.c1 = ⟨.filling 1#32, .free, .free⟩ := by decide

/-- A writer that waits goes before the engine, and the next turn is the one after it (R94). -/
theorem test_arbiter :
    (after (exec (.arbiterGrant 9#32 0) (ringOf [.line 2 [1#8, 2#8] 0] ⟨.filling 1#32, .free, .free⟩))).fmc.transfer =
      some (.writer 1) ∧
    (after (exec (.arbiterGrant 9#32 0) (ringOf [.line 2 [1#8, 2#8] 0] ⟨.filling 1#32, .free, .free⟩))).fmc.lastServed =
      1 := by decide

/-- Row 2 of slot 0 of CAM1's ring: 3 slots of 4,915,200 bytes and 2 rows of 3,840 behind address 0. -/
theorem test_writer_transfer :
    let s := ringOf [.line 2 [1#8, 2#8] 0, .publishReq 8#32 4#16] ⟨.filling 1#32, .free, .free⟩
    let s := after (exec (.writerTransferComplete 9#32) { s with fmc := { s.fmc with transfer := some (.writer 1) } })
    s.fmc.mem = [(14753280, 1#8), (14753281, 2#8)] ∧ s.cr.c1.fifo = [.publishReq 8#32 4#16] ∧ s.fmc.transfer =
      none := by
  decide

/-- Step 1 of 11.4: an uncorrectable word poisons the HELD slot, cuts CAM0 and records POISON with counter, line and
slot. -/
theorem test_poison :
    let s := inFrame .composing 420 (List.replicate 720 ⟨0#8, 0#8, 0#8⟩)
    let s := { s with fmc := { s.fmc with
      rings := s.fmc.rings.set 0 ⟨.free, .held 1#32 2#32 2210#16 false false, .filling 3#32⟩
      transfer := some (.taps 0 1 2210#16 1 420 350 0 0 1280 960) } }
    let s := after (exec (.compositionTransferComplete 8013450#32 [(614400, .double)]) s)
    s.fmc.rings.c0.s1 = .held 1#32 2#32 2210#16 true false ∧ s.ce.cut.c0 = true ∧
    s.fu.first = some ⟨⟨.cam 0, .poison, 8013450#32, some 2210#16, some 420, some 1⟩, false⟩ := by decide +kernel

/-- R105, R106: a further bit in a word that holds one makes it uncorrectable; POISON carries the line being composed
then, 421, and not the line 420 that an underrun has taken meanwhile. -/
theorem test_poison_after_underrun :
    let s := inFrame .composing 421 (List.replicate 720 ⟨0#8, 0#8, 0#8⟩)
    let s := { s with fmc := { s.fmc with
      rings := s.fmc.rings.set 0 ⟨.free, .held 1#32 2#32 2210#16 false false, .filling 3#32⟩
      wordErrors := [(614400, .single)]
      transfer := some (.taps 0 1 2210#16 1 420 350 0 0 1280 960) } }
    let s := after (exec (.compositionTransferComplete 8013450#32 [(614400, .single)]) s)
    s.fmc.rings.c0.s1 = .held 1#32 2#32 2210#16 true false ∧ s.fmc.wordErrors = [(614400, .double)] ∧
    s.fu.first = some ⟨⟨.cam 0, .poison, 8013450#32, some 2210#16, some 421, some 1⟩, false⟩ ∧ s.free = 0 := by
  decide +kernel

theorem test_line_complete :
    let s := after (exec (.lineComplete 9#32) (inFrame .composing 959 (List.replicate 720 ⟨16#8, 128#8, 128#8⟩)))
    s.ce.state = .finished ∧ s.op.fifo.map Prod.fst = [959] ∧ (s.op.fifo.map fun e => e.2.length) = [360] := by
  decide +kernel

/-- Line 0 is missing at line period 4: fill, an UNDERRUN of line 0 (R127). -/
theorem test_line_period :
    let s := inFrame .full 3 []
    let s := after (exec (.linePeriodStart 1128#32) { s with op := { s.op with counter := 3 } })
    s.op.underruns = 1 ∧ s.op.counter = 4 ∧ s.fu.first =
      some ⟨⟨.output, .underrun, 1128#32, none, some 0, none⟩, false⟩ := by
  decide +kernel

/-- Row 10 of 11.1: the frame end falls 30,848 after the frame start. -/
theorem test_frame_end :
    let s := inFrame .finished 0 []
    let s := { s with op := { s.op with counter := 963 } }
    (after (exec (.frameEnd 31848#32) s)).ce.state = .idle ∧
    (after (exec (.frameEnd 31848#32) s)).nq.history.map Summary.frameNo = [1] ∧
    (after (exec (.frameEnd 31847#32) s)).ce.state = .finished := by decide

/-! ### The step, and every arm of the dispatch -/

theorem test_step_front :
    (after (step { due with pending := [.replySent 5#32, .gapExpiry 6#32] })).pending = [.gapExpiry 6#32] ∧
    (after (step { due with timebase := 5#32 })).timebase = 6#32 := by decide

/-- A frame start: the frame number 1, the next start a period ahead, line period 0 (R116, R125). -/
theorem test_frame_start :
    let s := after (exec (.outputFrameStart 1000#32) due)
    s.pu.frameNo = 1 ∧ s.pu.compare = 34333#32 ∧ s.op.counter = 0 ∧ s.op.inFrame = true ∧ s.nq.queue = [] := by
  decide +kernel

/-- Row 0 of 11.3: READY 599 closed at 4,987,467 is taken at 5,000,000 with age 12,533. -/
theorem test_frame_start_takes :
    let s := cam1 due { port .locked with lastPublished := some 599#16 }
    let s := { s with
      pu := { s.pu with compare := 5000000#32 }
      fmc := { s.fmc with rings := s.fmc.rings.set 1 ⟨.ready 4956667#32 4987467#32 599#16, .filling 4990000#32, .free⟩ } }
    (after (exec (.outputFrameStart 5000000#32) s)).fmc.rings.c1 =
      ⟨.held 4956667#32 4987467#32 599#16 false false, .filling 4990000#32, .free⟩ ∧
    (takes s (.all false) 5000000#32).c1.2 = .taken false 0 599#16 12533#32 := by decide +kernel

/-! ### For each obligation with hypotheses, a state and operands that meet them, clause by clause -/

/-- Every port LOCKED, a frame open on CAM1 with its open request, a line and its FILLING slot. -/
def busy : State :=
  let s := inFrame .finished 0 []
  { s with
    cr := (Quad.all (port .locked)).set 1 { port .locked with openFrame := some (openFrame 7#16 1), fifo := [.line 0 [] 0] }
    fmc := { s.fmc with rings := .all ⟨.filling 1#32, .ready 2#32 3#32 4#16, .held 5#32 6#32 7#16 true false⟩ } }

theorem witness_StepRunsFront :
    ({ due with pending := [.replySent 5#32, .gapExpiry 6#32] } : State).pending =
      .replySent 5#32 :: [.gapExpiry 6#32] ∧
    due.pending = [] := ⟨rfl, rfl⟩

theorem witness_EveryCommandAnswers : (Instr.replySent 5#32).stamp = some 5#32 := rfl

theorem witness_RingLawKept : busy.ringsLawful ∧ step busy = .next busy.tick :=
  ⟨by intro c; match c with
      | 0 | 1 | 2 | 3 => exact ⟨by decide, by decide, by decide⟩, rfl⟩

/-- The port records of `busy` at their limits: counts and descriptor in range. -/
theorem busy_ports : busy.portsLawful := by
  intro c
  match c with
  | 0 | 1 | 2 | 3 => exact ⟨fun d h => by cases h; decide, rfl, rfl⟩

theorem witness_PortLawKept : busy.portsLawful ∧ step busy = .next busy.tick := ⟨busy_ports, rfl⟩

/-- The FIFOs of `busy` where the other three rings have no FILLING slot. -/
def steady : State :=
  { busy with
    fmc :=
      { busy.fmc with
        rings := (Quad.all ⟨.free, .ready 2#32 3#32 4#16, .free⟩).set 1 ⟨.filling 1#32, .free, .held 1#32 2#32 3#16 false true⟩ } }

theorem witness_FifoLawKept :
    (steady.ringsLawful ∧ steady.portsLawful ∧ steady.fifosAgree) ∧ step steady = .next steady.tick :=
  ⟨⟨by intro c; match c with
      | 0 | 1 | 2 | 3 => exact ⟨by decide, by decide, by decide⟩, busy_ports,
    by intro c; match c with
      | 0 | 2 | 3 => exact (rfl : false = false)
      | 1 => exact ⟨rfl, (rfl : true = true)⟩⟩, rfl⟩

/-- A LOADING slot and a CLOSING one whose CLOSE_VIEW occupies the executor. -/
def scanning : State :=
  { stopped with
    vs := { VS.reset with slots := ⟨⟨.empty, []⟩, ⟨.loading, [(0, blankNode)]⟩, ⟨.closing, [(2805, blankNode)]⟩, ⟨.empty, []⟩⟩ }
    lc := { LC.reset with closing := some ⟨7#8, 2, 9#32⟩ } }

theorem scanning_views : scanning.viewsLawful where
  tables v := by
    match v with
    | 0 | 3 => exact ⟨by decide, rfl⟩
    | 1 | 2 => exact ⟨by decide, List.cons_ne_nil _ _⟩
  active v w h := by
    match v with
    | 0 | 1 | 2 | 3 => exact absurd h (by decide)
  pending v := by match v with
    | 0 | 1 | 2 | 3 => decide
  closing v := by match v with
    | 0 | 1 | 2 | 3 => decide

theorem witness_ViewLawKept : scanning.viewsLawful ∧ step scanning = .next scanning.tick := ⟨scanning_views, rfl⟩

/-- The queue of 9.9 is lawful, and so is a full one. -/
theorem witness_NoticeLawKept :
    ({ stopped with nq := workedQueue } : State).nq.lawful ∧ ({ stopped with nq := fullQueue } : State).nq.lawful ∧
    step { stopped with nq := fullQueue } = .next ({ stopped with nq := fullQueue } : State).tick :=
  ⟨⟨by decide, by decide, by decide, by decide, by decide⟩,
    ⟨by decide +kernel, by decide +kernel, by decide +kernel, by decide +kernel, by decide⟩, rfl⟩

theorem stopped_settings : stopped.hu.lawful ∧ stopped.settingsLawful :=
  ⟨⟨by decide, by decide, by decide, by decide, by decide, by decide⟩,
    ⟨by decide, by decide, by decide, by decide, by decide⟩⟩

theorem witness_SettingsLawKept :
    (stopped.hu.lawful ∧ stopped.settingsLawful) ∧ step stopped = .next stopped.tick := ⟨stopped_settings, rfl⟩

/-- A frame in progress that took slot 2 of CAM1. -/
def taking : State :=
  { busy with
    ce := { busy.ce with set := some { emptySet with cams := (Quad.all .notQualified).set 1 (.taken ⟨2, 7#16, 5#32, false, 1280, 960⟩) } } }

theorem witness_RunLawKept : (taking.runLawful ∧ taking.slotsHeld) ∧ step taking = .next taking.tick :=
  ⟨⟨⟨by decide, fun h => absurd h (by decide), fun h => absurd h (by decide), ⟨fun h => absurd h (by decide), fun h => absurd h (by decide)⟩,
      fun h => absurd rfl h, fun h => absurd h (by decide), by decide, fun h => absurd h (by decide)⟩,
    by
      intro set h c k hk
      cases h
      match c with
      | 1 => cases hk; rfl
      | 0 | 2 | 3 => cases hk⟩, rfl⟩

theorem witness_CapacityKept :
    (taking.withinCapacity ∧ step taking = .next taking.tick) ∧
    ({ taking with fmc := { taking.fmc with mem := [(7, 1#8), (8, 2#8)], wordErrors := [(0, .single)] } } : State).memoryCanonical :=
  ⟨⟨⟨by decide, by decide, by decide, by decide, by decide, by decide, by decide⟩, rfl⟩, by decide, by decide⟩

theorem witness_CompositionSetFixed :
    exec (.replySent 9#32) taking = .next (after (exec (.replySent 9#32) taking)) ∧
    (∀ t, Instr.replySent 9#32 ≠ .outputFrameStart t) ∧ (∀ t, Instr.replySent 9#32 ≠ .frameEnd t) ∧
    (∀ t g p, Instr.replySent 9#32 ≠ .restart t g p) ∧ ∀ a b, Instr.replySent 9#32 ≠ .powerOn a b :=
  ⟨rfl, nofun, nofun, nofun, nofun⟩

theorem witness_ViewsStay :
    (exec (.replySent 9#32) views = .next (after (exec (.replySent 9#32) views)) ∧
      (views.vs.slots.get 2).state = .ready ∧ (views.vs.slots.get 1).state = .pending ∧
      (views.vs.slots.get 0).state = .active ∧ ∀ a b, Instr.replySent 9#32 ≠ .powerOn a b) ∧
    scanning.viewsLawful ∧ exec (.replySent 9#32) scanning = .next (after (exec (.replySent 9#32) scanning)) ∧
    (∀ t, Instr.replySent 9#32 ≠ .outputFrameStart t) ∧ ∀ t g p, Instr.replySent 9#32 ≠ .restart t g p :=
  ⟨⟨rfl, rfl, rfl, rfl, nofun⟩, scanning_views, rfl, nofun, nofun⟩

/-- The part after a SKIP fault of CAM1. -/
def faulty : State := stopped.handFault ⟨.cam 1, .skip, 3#32, some 7#16, none, none⟩

theorem witness_FaultStateStays :
    exec (.replySent 9#32) faulty = .next (after (exec (.replySent 9#32) faulty)) ∧
    faulty.fu.first = some ⟨⟨.cam 1, .skip, 3#32, some 7#16, none, none⟩, false⟩ ∧
    (faulty.fu.marks (.cam 1)).get .skip = true := ⟨rfl, by decide, by decide⟩

theorem witness_ReceiversIndependent :
    (exec (.frameClose 9#32 1 []) busy = .next (after (exec (.frameClose 9#32 1 []) busy)) ∧
      (Instr.frameClose 9#32 1 []).port = some 1 ∧ ((0 : Camera).val ≠ 1)) ∧ (busy.cr.get 0).qual ≠ .disabled :=
  ⟨⟨rfl, rfl, by decide⟩, by decide⟩

theorem witness_RequestChecks :
    ((0x77#8 : Byte).toNat ∉ catalogueKinds ∧ (asking stopped 0x77#8 1#8 []).asks 0x77#8 1#8 [] []) ∧
    ((Instr.stop 5#32 1#8 []).wf = true ∧ (Instr.stop 5#32 1#8 []).request =
      some ⟨5#32, 0x04#8, 1#8, [], some 0, true, true⟩ ∧
      (asking State.reset 0x04#8 1#8 []).asks 0x04#8 1#8 [] [] ∧ (asking State.reset 0x04#8 1#8 []).pu.run = .startup) ∧
    ((asking { stopped with pu := { PU.reset with run := .memoryFault } } 0x04#8 1#8 []).asks 0x04#8 1#8 [] [] ∧
      (asking { stopped with pu := { PU.reset with run := .memoryFault } } 0x04#8 1#8 []).pu.run = .memoryFault) ∧
    ((Instr.stop 5#32 1#8 [0#8]).request = some ⟨5#32, 0x04#8, 1#8, [0#8], some 0, true, true⟩ ∧
      (asking stopped 0x04#8 1#8 [0#8]).asks 0x04#8 1#8 [0#8] [] ∧ [(0#8 : Byte)].length ≠ 0) :=
  ⟨⟨by decide, asking_asks _ _ _ _⟩, ⟨rfl, rfl, asking_asks _ _ _ _, rfl⟩, ⟨asking_asks _ _ _ _, rfl⟩,
    rfl, asking_asks _ _ _ _, by decide⟩

theorem witness_RefusalChangesNothing :
    let s := asking stopped 0x20#8 1#8 [4#8]
    (Instr.clearView 5#32 1#8 [4#8]).request = some ⟨5#32, 0x20#8, 1#8, [4#8], some 1, true, true⟩ ∧
    s.asks 0x20#8 1#8 [4#8] [] ∧
    exec (.clearView 5#32 1#8 [4#8]) s = .next (after (exec (.clearView 5#32 1#8 [4#8]) s)) ∧
    (after (exec (.clearView 5#32 1#8 [4#8]) s)).lc.outbox = s.lc.outbox ++ [⟨0x20#8, 1#8, .badValue, [], true⟩] ∧
    Status.badValue.refusal = true :=
  ⟨rfl, asking_asks _ _ _ _, rfl, by decide, rfl⟩

/-- The framer in some state. -/
def framing (f : Framer) : State := { stopped with lc := { LC.reset with framer := f } }

theorem witness_FramerStoresBytes :
    (framing .hunt).lc.framer = .hunt ∧ (framing (.header [])).lc.framer = .header [] ∧
    ((framing (.header [1#8])).lc.framer = .header [1#8] ∧ 512 < (1#8 : Byte).toNat + 256 * (2#8 : Byte).toNat) ∧
    ((framing (.header [0#8])).lc.framer = .header [0#8] ∧ (0#8 : Byte).toNat + 256 * (2#8 : Byte).toNat ≤ 512) ∧
    (framing (.header [0#8, 0#8])).lc.framer = .header [0#8, 0#8] ∧
    ((framing (.header [0#8, 0#8, 1#8])).lc.framer = .header [0#8, 0#8, 1#8] ∧
      (0#8 : Byte).toNat + 256 * (0#8 : Byte).toNat = 0) ∧
    ((framing (.header [1#8, 0#8, 1#8])).lc.framer = .header [1#8, 0#8, 1#8] ∧
      (1#8 : Byte).toNat + 256 * (0#8 : Byte).toNat ≠ 0) ∧
    ((framing (.payload 2 1#8 2#8 [])).lc.framer = .payload 2 1#8 2#8 [] ∧ ([] : List Byte).length + 1 < 2) ∧
    ((framing (.payload 1 1#8 2#8 [])).lc.framer = .payload 1 1#8 2#8 [] ∧ ([] : List Byte).length + 1 = 1) ∧
    (framing (.trailer 0 1#8 2#8 [] [])).lc.framer = .trailer 0 1#8 2#8 [] [] ∧
    ((framing (.drain [1#8])).lc.framer = .drain [1#8] ∧ [(1#8 : Byte)].length < 2) ∧
    ((framing (.drain [1#8, 2#8])).lc.framer = .drain [1#8, 2#8] ∧ 2 ≤ [(1#8 : Byte), 2#8].length) := by decide

/-- The CRC of an IDENTIFY frame with TAG 7 as its two bytes, and a framer that waits for the second. -/
def identifyCrc : Half := crc [0#8, 0#8, 1#8, 7#8]

def lastByteDue (inbox : List Frame) : State :=
  { stopped with
    lc := { LC.reset with framer := .trailer 0 1#8 7#8 [] [BitVec.ofNat 8 identifyCrc.toNat], inbox := inbox } }

theorem witness_FrameCompletes :
    let c0 := BitVec.ofNat 8 identifyCrc.toNat
    let c1 := BitVec.ofNat 8 (identifyCrc.toNat / 256)
    let sound := fun (c1 : Byte) => c0.toNat + 256 * c1.toNat = (crc (leBytes 2 0 ++ 1#8 :: 7#8 :: [])).toNat
    (lastByteDue []).lc.framer = .trailer 0 1#8 7#8 [] [c0] ∧ sound c1 ∧ ¬ sound (c1 + 1) ∧
    (lastByteDue (List.replicate 3 ⟨1#8, 1#8, []⟩)).lc.inbox.length < 4 ∧
    4 ≤ (lastByteDue (List.replicate 4 ⟨1#8, 1#8, []⟩)).lc.inbox.length := by decide +kernel

theorem witness_FrameReachesInbox :
    let f : Frame := ⟨0x21#8, 9#8, List.replicate 512 0xC3#8⟩
    f.payload.length ≤ 512 ∧ stopped.lc.framer = .hunt ∧ stopped.lc.inbox.length < 4 ∧
    (List.replicate 518 8#32 ++ [9#32]).length = (requestBytes f).length := by decide +kernel

theorem witness_FramerStoresBytes_levels :
    (∀ i < 8, [true, true, false, false, false, false, true, true][i]? = some ((0xC3#8 : Byte).getLsbD i)) ∧
    [true, true, false, false, false, false, true, true].length = 8 ∧ ([] : List Bool).length ≠ 10 := by decide

theorem witness_GapsAndReplies_levels :
    (replyBytes ⟨1#8, 2#8, .ok, [], true⟩)[7]?.isSome = true ∧ LC.reset.outbox = [] := by decide +kernel

theorem witness_GapsAndReplies :
    (100#32 = (framing (.header [])).lc.lastByte + 100#32) ∧ (framing (.header [])).lc.framer = .header [] ∧
    (framing (.payload 2 1#8 2#8 [])).lc.framer = .payload 2 1#8 2#8 [] ∧
    (framing (.trailer 0 1#8 2#8 [] [])).lc.framer = .trailer 0 1#8 2#8 [] [] ∧
    (framing (.drain [])).lc.framer = .drain [] ∧ (framing (.drain [1#8])).lc.framer = .drain [1#8] ∧
    (framing (.drain [1#8, 2#8])).lc.framer = .drain [1#8, 2#8] ∧
    ({ stopped with lc := { LC.reset with outbox := [⟨1#8, 2#8, .ok, [], true⟩] } } : State).lc.outbox =
      ⟨1#8, 2#8, .ok, [], true⟩ :: [] := by decide

theorem witness_Identify : (asking State.reset 0x01#8 1#8 []).asks 0x01#8 1#8 [] [] := asking_asks _ _ _ _

theorem witness_StatusReport :
    (asking stopped 0x02#8 1#8 []).asks 0x02#8 1#8 [] [] ∧ stopped.hu.last = none ∧
    ∃ u, (asking { stopped with hu := HU.reset.update 1 workedTotals } 0x02#8 1#8 []).asks 0x02#8 1#8 [] [] ∧
      (asking { stopped with hu := HU.reset.update 1 workedTotals } 0x02#8 1#8 []).hu.last = some u :=
  ⟨asking_asks _ _ _ _, rfl, _, asking_asks _ _ _ _, rfl⟩

theorem witness_CameraAndFaultReports :
    ((3#8 : Byte).toNat = (3 : Camera).val ∧ (asking stopped 0x14#8 1#8 [3#8]).asksReady 0x14#8 1#8 [3#8] [] ∧
      (stopped.cr.get 3).descriptor = none ∧ ((cam1 stopped (port .locked)).cr.get 1).descriptor = some descriptor) ∧
    (4 ≤ (4#8 : Byte).toNat ∧ (asking stopped 0x14#8 1#8 [4#8]).asksReady 0x14#8 1#8 [4#8] []) ∧
    (asking stopped 0x38#8 1#8 []).asksReady 0x38#8 1#8 [] [] ∧ stopped.fu.first = none ∧
    faulty.fu.first = some ⟨⟨.cam 1, .skip, 3#32, some 7#16, none, none⟩, false⟩ :=
  ⟨⟨rfl, asking_ready _ _ _, rfl, rfl⟩, ⟨by decide, asking_ready _ _ _⟩, asking_ready _ _ _, rfl, by decide⟩

/-- A request to a state that is not in STARTUP or MEMORY_FAULT. -/
theorem asking_to (s : State) (h : s.pu.run ≠ .startup ∧ s.pu.run ≠ .memoryFault) (k g : Byte) (p : List Byte) :
    (asking s k g p).asksReady k g p [] := ⟨asking_asks _ _ _ _, h⟩

theorem witness_NodesAndHistoryReports :
    ((asking stopped 0x24#8 1#8 (0#8 :: leBytes 2 2805 ++ [2#8])).asksReady 0x24#8 1#8 (0#8 :: leBytes 2 2805 ++ [2#8]) [] ∧
      2805 < 65536 ∧ ¬ ((0#8 : Byte).toNat < 4 ∧ 1 ≤ (2#8 : Byte).toNat ∧ (2#8 : Byte).toNat ≤ 16 ∧
        2805 + (2#8 : Byte).toNat ≤ 2806)) ∧
    ((asking scanning 0x24#8 1#8 (1#8 :: leBytes 2 2790 ++ [16#8])).lc.inbox =
      [⟨0x24#8, 1#8, 1#8 :: leBytes 2 2790 ++ [16#8]⟩] ∧
      (asking loading 0x24#8 1#8 (2#8 :: leBytes 2 2790 ++ [16#8])).asksReady 0x24#8 1#8 (2#8 :: leBytes 2 2790 ++ [16#8]) [] ∧
      (2#8 : Byte).toNat = (2 : Fin 4).val ∧ 1 ≤ (16#8 : Byte).toNat ∧ (16#8 : Byte).toNat ≤ 16 ∧
        2790 + (16#8 : Byte).toNat ≤ 2806 ∧
      (loading.vs.slots.get 2).state ≠ .empty ∧ (loading.vs.slots.get 2).state ≠ .closing ∧
      (stopped.vs.slots.get 2).state = .empty ∧ (scanning.vs.slots.get 2).state = .closing) ∧
    ((asking stopped 0x42#8 1#8 [7#8, 5#8]).asksReady 0x42#8 1#8 [7#8, 5#8] [] ∧
      ¬ ((7#8 : Byte).toNat ≤ 7 ∧ 1 ≤ (5#8 : Byte).toNat ∧ (5#8 : Byte).toNat ≤ 4)) ∧
    ((asking stopped 0x42#8 1#8 [7#8, 4#8]).asksReady 0x42#8 1#8 [7#8, 4#8] [] ∧ (7#8 : Byte).toNat ≤ 7 ∧
      1 ≤ (4#8 : Byte).toNat ∧ (4#8 : Byte).toNat ≤ 4) :=
  ⟨⟨asking_ready _ _ _, by decide, by decide⟩, ⟨rfl, asking_to _ (by decide) _ _ _, by decide, by decide,
    by decide, by decide,
    by decide, by decide, rfl, rfl⟩, ⟨asking_ready _ _ _, by decide⟩, asking_ready _ _ _, by decide, by decide,
      by decide⟩

/-- Two summaries in the history, the later one of a frame without a view. -/
def remembering : State :=
  let x := summaryOf emptySet CE.reset 0
  { stopped with nq := { NQ.reset with history := [{ x with view := some 2 }, { x with view := none }] } }

theorem witness_NodesAndHistoryReports_summary :
    (asking remembering 0x42#8 1#8 [0#8, 4#8]).asksReady 0x42#8 1#8 [0#8, 4#8] [] ∧ 1 < (4#8 : Byte).toNat ∧
    ((remembering.nq.history[(0#8 : Byte).toNat + 0]?).bind Summary.view) = some 2 ∧
    (remembering.nq.history[(0#8 : Byte).toNat + 1]?).map Summary.view = some none :=
  ⟨asking_to _ (by decide) _ _ _, by decide, by decide, by decide⟩

theorem witness_PowerOnAndInitialisation :
    (State.reset.fmc.init = .training 0#32 ∧ 1000#32 = 0#32 + 1000#32) ∧
    ({ State.reset with fmc := { FMC.reset with init := .filling 0#32 } } : State).fmc.init = .filling 0#32 ∧
    150000#32 = 0#32 + 150000#32 := by decide

theorem witness_StartAndStop :
    ((asking stopped 0x03#8 1#8 []).asksReady 0x03#8 1#8 [] [] ∧ stopped.pu.run = .stopped) ∧
    ((asking due 0x03#8 1#8 []).asksReady 0x03#8 1#8 [] [] ∧ due.pu.run = .running ∧ due.ce.state = .idle) ∧
    ((asking { busy with pu := { busy.pu with run := .stopping } } 0x03#8 1#8 []).asksReady 0x03#8 1#8 [] []) ∧
    ((asking due 0x04#8 1#8 []).asksReady 0x04#8 1#8 [] []) ∧
    ((asking busy 0x04#8 1#8 []).asksReady 0x04#8 1#8 [] [] ∧ busy.pu.run = .running ∧ busy.ce.state ≠ .idle) ∧
    (asking stopped 0x04#8 1#8 []).asksReady 0x04#8 1#8 [] [] ∧
    ((asking State.reset 0x03#8 1#8 []).asks 0x03#8 1#8 [] [] ∧ (asking State.reset 0x04#8 1#8 []).asks 0x04#8 1#8 [] [] ∧
      State.reset.pu.run = .startup) :=
  ⟨⟨asking_ready _ _ _, rfl⟩, ⟨asking_to _ (by decide) _ _ _, rfl, rfl⟩, asking_to _ (by decide) _ _ _,
    asking_to _ (by decide) _ _ _, ⟨asking_to _ (by decide) _ _ _, rfl, by decide⟩, asking_ready _ _ _,
    ⟨rfl, rfl, by decide⟩, ⟨rfl, rfl, by decide⟩, rfl⟩

theorem witness_SetTiming :
    (31488 < 2 ^ 32 ∧ 200000 < 2 ^ 32 ∧
      (asking stopped 0x06#8 1#8 (leBytes 4 31488 ++ leBytes 4 200000)).asksReady 0x06#8 1#8 (leBytes 4 31488 ++ leBytes 4 200000)
        []) ∧
    (asking stopped 0x06#8 1#8 (leBytes 4 31487 ++ leBytes 4 200001)).asksReady 0x06#8 1#8 (leBytes 4 31487 ++ leBytes 4 200001)
      [] := ⟨⟨by decide, by decide, asking_ready _ _ _⟩, asking_ready _ _ _⟩

theorem witness_Restart :
    ((asking State.reset 0x05#8 1#8 []).asks 0x05#8 1#8 [] [] ∧ State.reset.pu.run = .startup) ∧
    ((asking { stopped with pu := { PU.reset with run := .memoryFault } } 0x05#8 1#8 []).asks 0x05#8 1#8 [] []) ∧
    ((asking taking 0x05#8 1#8 []).asks 0x05#8 1#8 [] [] ∧ taking.pu.run ≠ .startup ∧ taking.pu.run ≠ .memoryFault ∧
      taking.hu.settings.gmin ≤ taking.hu.settings.gmax) :=
  ⟨⟨asking_asks _ _ _ _, rfl⟩, asking_asks _ _ _ _, asking_asks _ _ _ _, by decide, by decide, by decide⟩

/-- SET_CAMERA's payload for a camera number and the descriptor of the worked sequences, as the statement spells it. -/
def setCameraPayload (b : Byte) (d : Descriptor) : List Byte :=
  b :: (leBytes 2 d.width ++ leBytes 2 d.height ++ leBytes 2 d.linePeriod ++ leBytes 4 d.nominal ++ leBytes 1 d.tolerance ++
    leBytes 4 d.silenceUs ++ leBytes 2 d.silenceLines ++ leBytes 1 d.acquire ++ leBytes 1 d.lose)

theorem witness_SetAndEnableCamera :
    (∀ b d s, s.pu.run ≠ .startup ∧ s.pu.run ≠ .memoryFault →
      (asking s 0x10#8 1#8 (setCameraPayload b d)).asksReady 0x10#8 1#8 (setCameraPayload b d) []) ∧
    (descriptor.width < 2 ^ 16 ∧ descriptor.height < 2 ^ 16 ∧ descriptor.linePeriod < 2 ^ 16 ∧
      descriptor.nominal < 2 ^ 32 ∧
      descriptor.tolerance < 2 ^ 8 ∧ descriptor.silenceUs < 2 ^ 32 ∧ descriptor.silenceLines < 2 ^ 16 ∧
      descriptor.acquire < 2 ^ 8 ∧ descriptor.lose < 2 ^ 8) ∧
    4 ≤ (4#8 : Byte).toNat ∧ (1#8 : Byte).toNat = (1 : Camera).val ∧
    ((cam1 stopped (port .noSignal)).cr.get 1).qual ≠ .disabled ∧ ((cam1 stopped (port .disabled)).cr.get 1).qual =
      .disabled ∧
    ({ descriptor with width := 321 }.inRange = false ∧ descriptor.inRange = true) ∧
    (asking (cam1 stopped (port .disabled)) 0x11#8 1#8 [1#8]).asksReady 0x11#8 1#8 [1#8] [] ∧
    (stopped.cr.get 1).descriptor = none ∧ ((cam1 stopped (port .disabled)).cr.get 1).descriptor = some descriptor :=
  ⟨fun _ _ s h => asking_to s h _ _ _, by decide, by decide, rfl, by decide, rfl, by decide,
    asking_to _ (by decide) _ _ _, rfl, rfl⟩

theorem witness_DisableAndResetCamera :
    (1#8 : Byte).toNat = (1 : Camera).val ∧ (asking busy 0x12#8 1#8 [1#8]).asksReady 0x12#8 1#8 [1#8] [] ∧
    ({ busy with fmc := { busy.fmc with transfer := some (.writer 1) } } : State).fmc.transfer = some (.writer 1) ∧
    busy.fmc.transfer ≠ some (.writer 1) ∧ (asking busy 0x13#8 1#8 [1#8]).asksReady 0x13#8 1#8 [1#8] [] ∧
    busy.hu.settings.gmin ≤ busy.hu.settings.gmax ∧ 4 ≤ (4#8 : Byte).toNat ∧
    (asking busy 0x12#8 1#8 [4#8]).asksReady 0x12#8 1#8 [4#8] [] ∧
      (asking busy 0x13#8 1#8 [4#8]).asksReady 0x13#8 1#8 [4#8] [] :=
  ⟨rfl, asking_to _ (by decide) _ _ _, rfl, by decide, asking_to _ (by decide) _ _ _, by decide, by decide,
    asking_to _ (by decide) _ _ _, asking_to _ (by decide) _ _ _⟩

theorem witness_FrameOpens :
    (stopped.cr.get 1).qual = .disabled ∧
    (((cam1 stopped (port .noSignal)).cr.get 1).descriptor = some descriptor ∧
      ((cam1 stopped (port .noSignal)).cr.get 1).qual = .noSignal) ∧
    (((cam1 stopped (port .acquiring)).cr.get 1).qual = .acquiring ∧
      ((cam1 stopped (port .acquiring)).cr.get 1).openFrame = none) ∧
    ((busy.cr.get 1).qual = .locked ∧ (busy.cr.get 1).openFrame = some (openFrame 7#16 1)) := by decide

/-- CAM1 LOCKED inside a frame whose next line is `n`, with this INFO and this write FIFO. -/
def receiving (i : Option Info) (n : Nat) (fifo : List FifoEntry) : State :=
  cam1 stopped { port .locked with openFrame := some ⟨1#32, i, n, none⟩, fifo := fifo }

theorem witness_PacketsInFrame :
    (∃ type : Byte, type ∉ [1#8, 2#8, 4#8, 8#8]) ∧ ((cam1 stopped (port .noSignal)).cr.get 1).qual = .noSignal ∧
    (((cam1 stopped (port .locked)).cr.get 1).qual = .locked ∧ ((cam1 stopped (port .locked)).cr.get 1).openFrame =
      none) ∧
    (((receiving none 0 []).cr.get 1).openFrame = some ⟨1#32, none, 0, none⟩ ∧ (crc [0#8]).toNat < 65536) ∧
    (((receiving (some (infoRecord 1 2)) 960 []).cr.get 1).openFrame = some ⟨1#32, some (infoRecord 1 2), 960, none⟩ ∧
      ((receiving (some (infoRecord 1 2)) 960 []).cr.get 1).descriptor = some descriptor ∧ 959 < 65536 ∧ 960 =
        descriptor.height) ∧
    (((receiving (some (infoRecord 1 2)) 959 [.line 958 [] 0, .line 957 [] 0]).cr.get 1).openFrame =
        some ⟨1#32, some (infoRecord 1 2), 959, none⟩ ∧ 959 ≠ descriptor.height ∧
      2 ≤ lineEntries ((receiving (some (infoRecord 1 2)) 959 [.line 958 [] 0, .line 957 [] 0]).cr.get 1).fifo ∧
      lineEntries ((receiving (some (infoRecord 1 2)) 959 [.line 958 [] 0]).cr.get 1).fifo < 2 ∧
      (List.replicate 2560 0#8 : List Byte).length = 2 * descriptor.width ∧
      (List.replicate 2558 0#8 : List Byte).length ≠ 2 * descriptor.width ∧ 958 ≠ 959 ∧ [(0#8 : Byte)].length < 2) :=
  ⟨⟨3#8, by decide⟩, rfl, ⟨rfl, rfl⟩, ⟨rfl, (crc [0#8]).isLt⟩, ⟨rfl, rfl, by decide, rfl⟩, rfl, by decide,
    by decide, by decide,
    by decide +kernel, by decide +kernel, by decide, by decide⟩

/-- CAM1 at its FRAME_CLOSE with a whole good frame, in some state and with these counts. -/
def closing (q : Qual) (g b : Nat) : Receiver :=
  { port q with goodRun := g, badRun := b, openFrame := some (openFrame 7#16 960) }

theorem witness_GoodFrameCloses :
    ((cam1 stopped (closing .acquiring 1 0)).cr.get 1).descriptor = some descriptor ∧
    ((cam1 stopped (closing .acquiring 1 0)).cr.get 1).openFrame = some (openFrame 7#16 960) ∧
    (openFrame 7#16 960).failure = none ∧ (openFrame 7#16 960).info = some (infoRecord 7#16 820#16) ∧
    (openFrame 7#16 960).next = descriptor.height ∧
    (((cam1 stopped (closing .acquiring 1 0)).cr.get 1).qual = .acquiring ∧
      (closing .acquiring 1 0).goodRun + 1 < descriptor.acquire) ∧
    (closing .acquiring 2 0).goodRun + 1 = descriptor.acquire ∧
      ((cam1 stopped (closing .locked 0 0)).cr.get 1).qual = .locked ∧
    (((cam1 stopped (closing .holdover 1 1)).cr.get 1).qual = .holdover ∧
      (closing .holdover 1 1).goodRun + 1 < descriptor.acquire) ∧
    (closing .holdover 2 1).goodRun + 1 = descriptor.acquire := by decide

theorem witness_BadFrameCloses :
    (stopped.cr.get 1).qual = .disabled ∧
    (((cam1 stopped (port .locked)).cr.get 1).qual = .locked ∧ ((cam1 stopped (port .locked)).cr.get 1).openFrame =
      none) ∧
    ((busy.cr.get 1).descriptor = some descriptor ∧ (busy.cr.get 1).openFrame = some (openFrame 7#16 1) ∧
      (openFrame 7#16 959).failure = none ∧ (openFrame 7#16 959).info ≠ none ∧
        (openFrame 7#16 959).next < descriptor.height) ∧
    ((⟨1#32, none, 0, none⟩ : OpenFrame).failure = none ∧ (⟨1#32, none, 0, none⟩ : OpenFrame).info = none) ∧
    (⟨1#32, none, 0, some ⟨.period, 1#32, none⟩⟩ : OpenFrame).failure = some ⟨.period, 1#32, none⟩ ∧
      2 ≤ descriptor.lose ∧
    { descriptor with lose := 1 }.lose = 1 ∧ (closing .holdover 0 0).badRun + 1 < descriptor.lose ∧
    (closing .holdover 0 1).badRun + 1 = descriptor.lose := by decide

theorem witness_SilenceExpires :
    5000#32 = ((cam1 stopped (port .acquiring)).cr.get 1).lastArrival + BitVec.ofNat 32 ((cam1 stopped (port .acquiring)).cr.get 1).threshold ∧
    ((cam1 stopped (port .acquiring)).cr.get 1).qual = .acquiring ∧
      ((cam1 stopped (port .holdover)).cr.get 1).qual = .holdover := by
  decide

theorem witness_RingRequests :
    (((ringOf [.openReq] ⟨.held 0#32 9#32 1#16 false false, .ready 1#32 2#32 3#16, .free⟩).cr.get 1).fifo =
      .openReq :: [] ∧
      (∀ j : Fin 3, ((⟨.held 0#32 9#32 1#16 false false, .ready 1#32 2#32 3#16, .free⟩ : Ring).get j).isFilling =
        false) ∧
      (⟨.held 0#32 9#32 1#16 false false, .ready 1#32 2#32 3#16, .free⟩ : Ring).get 2 = .free ∧
      ∀ j < (2 : Fin 3), (⟨.held 0#32 9#32 1#16 false false, .ready 1#32 2#32 3#16, .free⟩ : Ring).get j ≠ .free) ∧
    (((⟨.free, .filling 1#32, .free⟩ : Ring).get 1).isFilling = true ∧
      ∀ j < (1 : Fin 3), ((⟨.free, .filling 1#32, .free⟩ : Ring).get j).isFilling = false) ∧
    ((ringOf [.abandonReq] (.all .free)).cr.get 1).fifo = .abandonReq :: [] ∧
    ((ringOf [.dropReadyReq] (.all .free)).cr.get 1).fifo = .dropReadyReq :: [] ∧
    ((ringOf [.publishReq 8#32 4#16] (.all .free)).cr.get 1).fifo = .publishReq 8#32 4#16 :: [] ∧
    Ring.lawful ⟨.filling 1#32, .held 1#32 2#32 3#16 true true, .ready 1#32 2#32 3#16⟩ ∧
    (⟨.filling 1#32, .held 1#32 2#32 3#16 true true, .ready 1#32 2#32 3#16⟩ : Ring).get 0 = .filling 1#32 :=
  ⟨⟨rfl, by decide, rfl, by decide⟩, ⟨rfl, by decide⟩, rfl, rfl, rfl, ⟨by decide, by decide, by decide⟩, rfl⟩

theorem witness_FaultRequests :
    (65535 < 65536 ∧ (asking stopped 0x39#8 1#8 (32#8 :: leBytes 2 1023 ++ [1#8])).asksReady 0x39#8 1#8
      (32#8 :: leBytes 2 1023 ++ [1#8]) [] ∧ ¬ ((32#8 : Byte).toNat ≤ 31 ∧ 1023 ≤ 1023 ∧ (1#8 : Byte).toNat ≤ 1)) ∧
    ((asking stopped 0x39#8 1#8 (31#8 :: leBytes 2 1023 ++ [1#8])).asksReady 0x39#8 1#8 (31#8 :: leBytes 2 1023 ++ [1#8]) [] ∧
      (31#8 : Byte).toNat ≤ 31 ∧ 1023 ≤ 1023 ∧ (1#8 : Byte).toNat ≤ 1) ∧
    (asking stopped 0x3A#8 1#8 [8#8, 0#8, 1#8]).asksReady 0x3A#8 1#8 [8#8, 0#8, 1#8] [] ∧
    ((asking stopped 0x3A#8 1#8 [10#8, 1#8, 0#8]).asksReady 0x3A#8 1#8 [10#8, 1#8, 0#8] [] ∧
      (1 ≤ (10#8 : Byte).toNat ∧ (10#8 : Byte).toNat ≤ 10) ∧ (1#8 : Byte).toNat ≤ 1 ∧ (0#8 : Byte).toNat ≤ 1 ∧
        ¬ ((0#8 : Byte) = 1#8)) :=
  ⟨⟨by decide, asking_ready _ _ _, by decide⟩, ⟨asking_ready _ _ _, by decide, by decide, by decide⟩,
    asking_ready _ _ _,
    asking_ready _ _ _, by decide, by decide, by decide, by decide⟩

theorem witness_ArbiterGrants :
    let s := ringOf [.line 2 [1#8, 2#8] 0] ⟨.filling 1#32, .free, .free⟩
    (s.pu.run ≠ .startup ∧ s.pu.run ≠ .memoryFault ∧ s.fmc.transfer = none) ∧
    ((s.cr.get 1).fifo = .line 2 [1#8, 2#8] 0 :: [] ∧ 0 < [(1#8 : Byte), 2#8].length ∧
      ∀ x : Camera, x ≠ 1 → (s.cr.get x).fifo = []) ∧
    ((∀ c : Camera, (stopped.cr.get c).fifo = []) ∧ stopped.ce.wanted stopped.nodes = []) := by decide

/-- A node table in which every node holds one record. -/
def wholeTable (x : NodeRecord) : List (Nat × NodeRecord) := (List.range' 0 2806).map fun i => (i, x)

theorem keyGet_run (x : NodeRecord) (a n k : Nat) :
    keyGet ((List.range' a n).map fun i => (i, x)) k = if a ≤ k ∧ k < a + n then some x else none := by
  induction n generalizing a with
  | zero => rw [if_neg (by omega)]; rfl
  | succ n ih =>
    rw [List.range'_succ, List.map_cons, keyGet, ih]
    split
    · rw [if_pos (by omega)]
    · by_cases h : a + 1 ≤ k ∧ k < a + 1 + n
      · rw [if_pos h, if_pos (by omega)]
      · rw [if_neg h, if_neg (by omega)]

theorem wholeTable_get (x : NodeRecord) {k : Nat} (h : k < 2806) : keyGet (wholeTable x) k = some x := by
  rw [wholeTable, keyGet_run, if_pos (by omega)]

theorem wholeTable_rising (x : NodeRecord) (a n : Nat) : keysRising ((List.range' a n).map fun i => (i, x)) = true := by
  induction n generalizing a with
  | zero => rfl
  | succ n ih =>
    rw [List.range'_succ, List.map_cons, keysRising, ih, Bool.and_true]
    exact List.all_eq_true.2 fun e he => by
      obtain ⟨i, hi, rfl⟩ := List.mem_map.1 he
      exact decide_eq_true (List.mem_range'_1.1 hi).1

theorem wholeTable_written (x : NodeRecord) : unwritten (wholeTable x) = [] :=
  List.filter_eq_nil_iff.2 fun i hi => by rw [wholeTable_get x (List.mem_range.1 hi)]; exact Bool.false_ne_true

/-- Every camera at (100, 200) with weight 10, everywhere. -/
def flatNode : NodeRecord := .all ⟨some (100, 200), 10⟩

/-- A frame that composes VIEW0 with one camera. -/
def composing : State :=
  { taking with
    vs := { VS.reset with slots := (Quad.all .reset).set 0 ⟨.active, wholeTable flatNode⟩ }
    ce :=
      { CE.reset with
        state := .composing, line := 3
        set :=
          some { emptySet with
            view := some 0, cams := (Quad.all .notQualified).set 1 (.taken ⟨2, 7#16, 5#32, false, 1280, 960⟩) } } }

theorem composing_nodes : composing.nodes = wholeTable flatNode := rfl

theorem composing_corners : corners composing.nodes 0 3 = .all flatNode := by
  have h : ∀ k < 2806, nodeAt composing.nodes k = flatNode := fun k hk => by
    rw [composing_nodes, nodeAt, wholeTable_get flatNode hk]; rfl
  show Quad.map (cornerIndices 0 0) (nodeAt composing.nodes) = _
  simp only [cornerIndices, Quad.map, Config.nodeColumns, h _ (by omega : (0 * 46 + 0) < 2806), h _ (by omega : 0 * 46 + 0 + 1 < 2806),
    h _ (by omega : 0 * 46 + 0 + 46 < 2806), h _ (by omega : 0 * 46 + 0 + 47 < 2806)]
  rfl

/-- What CAM1 contributes to the pixel that `composing` is at. -/
def contributed : Contribution := ⟨1, 10, 100, 200, ⟨2, 7#16, 5#32, false, 1280, 960⟩⟩

theorem composing_contributes :
    ∀ set, composing.ce.set = some set → contribution composing.nodes set composing.ce.cut 0 3 1 =
      some contributed := by
  intro set h
  cases h
  unfold contribution
  rw [composing_corners]
  decide

theorem composing_wants : contributed ∈ composing.ce.wanted composing.nodes := by
  have h := composing_contributes _ rfl
  refine List.mem_filter.2 ⟨?_, rfl⟩
  have hc : composing.ce.contributing composing.nodes = cameras.filterMap
      (contribution composing.nodes (composing.ce.set.getD emptySet) composing.ce.cut 0 3) := by
    unfold CE.contributing
    exact if_pos ⟨rfl, Nat.zero_lt_succ 719⟩
  rw [hc]
  exact List.mem_filterMap.2 ⟨1, by decide, h⟩

theorem composing_views : composing.viewsLawful where
  tables v := by
    match v with
    | 0 => exact ⟨wholeTable_rising _ _ _, wholeTable_written _⟩
    | 1 | 2 | 3 => exact ⟨rfl, rfl⟩
  active v w h h' := by
    have only : ∀ x : Fin 4, (composing.vs.slots.get x).state = .active → x = 0 := by decide
    exact (only v h).trans (only w h').symm
  pending v := by match v with
    | 0 | 1 | 2 | 3 => exact ⟨nofun, nofun⟩
  closing v := by match v with
    | 0 | 1 | 2 | 3 => exact ⟨nofun, nofun⟩

theorem witness_EngineWaitsForTaps :
    (composing.viewsLawful ∧ ∀ set, composing.ce.set = some set →
      (∀ v, set.view = some v → (composing.vs.slots.get v).state = .active) ∧
      (composing.ce.state = .composing → composing.ce.pixels.length < 720 → composing.ce.wanted composing.nodes ≠ [])) ∧
    step composing = .next composing.tick :=
  ⟨⟨composing_views, fun set h => by
    cases h
    exact ⟨fun v hv => by cases hv; rfl, fun _ _ => List.ne_nil_of_mem composing_wants⟩⟩, rfl⟩

theorem witness_ArbiterGrantsTaps :
    (∀ c : Camera, c ≠ 1 → (composing.cr.get c).fifo = []) ∧ (composing.cr.get 1).fifo = [.line 0 [] 0] ∧
    contributed ∈ composing.ce.wanted composing.nodes ∧ composing.fmc.transfer = none ∧ composing.ce.set.isSome =
      true :=
  ⟨fun c h => by match c with
    | 0 | 2 | 3 => rfl
    | 1 => exact absurd rfl h, rfl, composing_wants, rfl, rfl⟩

theorem witness_PixelContribution :
    ∃ set, composing.ce.set = some set ∧ contribution composing.nodes set composing.ce.cut 0 3 1 = some contributed :=
  ⟨_, rfl, composing_contributes _ rfl⟩

theorem witness_WriterTransfers :
    let s := ringOf [.line 2 [1#8, 2#8] 0, .abandonReq] ⟨.filling 1#32, .free, .free⟩
    let s : State := { s with fmc := { s.fmc with transfer := some (.writer 1) } }
    s.fmc.transfer = some (.writer 1) ∧ (s.cr.get 1).fifo = .line 2 [1#8, 2#8] 0 :: [.abandonReq] ∧
    Trio.find (s.fmc.rings.get 1) SlotRecord.isFilling = some 0 := by decide

/-- `composing` with the tap read of its pixel in flight. -/
def reading : State :=
  { composing with
    fmc := { composing.fmc with transfer := some (.taps 1 2 7#16 1 3 0 100 200 1280 960) } }

/-- The bits in error that a read of these words meets under these upsets. -/
def bitsMet (e ups : List (Nat × WordError)) (a : Nat) : Nat :=
  errorBits (keyGet e a) + ((ups.filter fun x => x.1 = a).map fun x => errorBits (some x.2)).sum

theorem witness_CompositionTransfers :
    reading.fmc.transfer = some (.taps 1 2 7#16 1 3 0 100 200 1280 960) ∧
    (∃ set, reading.ce.set = some set ∧ set.frameNo = 1) ∧ reading.ce.state = .composing ∧ reading.ce.line = 3 ∧
    reading.ce.pixels.length = 0 ∧
    (tapWords 1 2 100 200 1280 960).any (fun a => decide (2 ≤ bitsMet reading.fmc.wordErrors [] a)) = false ∧
    (tapWords 1 2 100 200 1280 960).any (fun a => decide (2 ≤ bitsMet reading.fmc.wordErrors [(3073440, .double)] a)) = true ∧
    (reading.fmc.rings.get 1).get 2 = .held 5#32 6#32 7#16 true false ∧
    ((reading.fmc.rings.get 1).get 0).isHeld = false ∧ State.reset.ce.state ≠ .composing := by
  refine ⟨rfl, ⟨_, rfl, rfl⟩, rfl, rfl, rfl, by decide +kernel, by decide +kernel, by decide, by decide, by decide⟩

theorem witness_ClearAndLoadView :
    ((asking loading 0x20#8 1#8 [2#8]).asksReady 0x20#8 1#8 [2#8] [] ∧ 4 ≤ (4#8 : Byte).toNat ∧ (2#8 : Byte).toNat =
      (2 : Fin 4).val ∧
      (scanning.vs.slots.get 2).state = .closing ∧ (loading.vs.slots.get 2).state = .loading ∧
        (stopped.vs.slots.get 2).state = .empty) ∧
    ((asking stopped 0x21#8 1#8 [2#8, 0#8, 0#8]).asksReady 0x21#8 1#8 [2#8, 0#8, 0#8] [] ∧
      [(2#8 : Byte), 0#8, 0#8].length < 4) ∧
    ((asking stopped 0x21#8 1#8 (2#8 :: leBytes 2 2805 ++ 1#8 :: [nodeBytes].flatten)).asksReady 0x21#8 1#8
        (2#8 :: leBytes 2 2805 ++ 1#8 :: [nodeBytes].flatten) [] ∧
      2805 < 65536 ∧ (∀ x ∈ [nodeBytes], x.length = 28) ∧ 1 ≤ (1#8 : Byte).toNat ∧ (1#8 : Byte).toNat ≤ 16 ∧
      2805 + (1#8 : Byte).toNat ≤ 2806 ∧ [nodeBytes].length = (1#8 : Byte).toNat ∧
        nodeRecordInRange (nodeRecordOf nodeBytes) = true ∧
      nodeRecordInRange (nodeRecordOf (nodeBytes.set 13 65#8)) = false) ∧
    ¬ (2806 + (1#8 : Byte).toNat ≤ 2806) ∧ (views.vs.slots.get 1).state ≠ .empty ∧
      (views.vs.slots.get 1).state ≠ .loading :=
  ⟨⟨asking_to _ (by decide) _ _ _, by decide, rfl, rfl, rfl, rfl⟩, ⟨asking_ready _ _ _, by decide⟩,
    ⟨asking_ready _ _ _, by decide, by decide, by decide, by decide, by decide, by decide, by decide +kernel,
      by decide +kernel⟩,
    by decide, by decide, by decide⟩

/-- A CLOSE_VIEW of a slot that is whole, its scan begun at 9. -/
def wholeScan : State :=
  { stopped with
    vs := { VS.reset with slots := (Quad.all .reset).set 2 ⟨.closing, wholeTable flatNode⟩ }
    lc := { LC.reset with closing := some ⟨7#8, 2, 9#32⟩ } }

theorem witness_CloseAndScanView :
    ((asking loading 0x22#8 1#8 [2#8]).asksReady 0x22#8 1#8 [2#8] [] ∧ (2#8 : Byte).toNat = (2 : Fin 4).val ∧
      (loading.vs.slots.get 2).state = .loading ∧ (stopped.vs.slots.get 2).state ≠ .loading ∧ 4 ≤ (4#8 : Byte).toNat) ∧
    (wholeScan.lc.closing = some ⟨7#8, 2, 9#32⟩ ∧ 3009#32 = 9#32 + 3000#32 ∧
      ∀ n < 2806, (keyGet (wholeScan.vs.slots.get 2).nodes n).isSome = true) ∧
    (scanning.lc.closing = some ⟨7#8, 2, 9#32⟩ ∧ 0 < 2806 ∧ keyGet (scanning.vs.slots.get 2).nodes 0 = none ∧
      ∀ n < 0, (keyGet (scanning.vs.slots.get 2).nodes n).isSome = true) :=
  ⟨⟨asking_to _ (by decide) _ _ _, rfl, rfl, by decide, by decide⟩,
    ⟨rfl, by decide, fun n hn => by
      show (keyGet (wholeTable flatNode) n).isSome = true
      rw [wholeTable_get _ hn]; rfl⟩, rfl, by decide, rfl, fun n hn => absurd hn (Nat.not_lt_zero n)⟩

theorem witness_SelectsView :
    (∀ b, (asking views 0x23#8 1#8 [b]).asksReady 0x23#8 1#8 [b] []) ∧ (3#8 : Byte) ≠ 0xFF#8 ∧ 4 ≤ (4#8 : Byte).toNat ∧
    (∀ v : Fin 4, (BitVec.ofNat 8 v.val).toNat = v.val) ∧ (views.vs.slots.get 3).state = .empty ∧
    (views.vs.slots.get 1).state = .pending ∧ (views.vs.slots.get 2).state = .ready ∧ (views.vs.slots.get 0).state =
      .active ∧
    (loading.vs.slots.get 2).state = .loading ∧ (scanning.vs.slots.get 2).state = .closing :=
  ⟨fun _ => asking_to _ (by decide) _ _ _, by decide, by decide, by decide, rfl, rfl, rfl, rfl, rfl, rfl⟩

theorem witness_ZoneBodyAndFill :
    (∀ k p, (asking stopped k 1#8 p).asksReady k 1#8 p []) ∧
    ((3#8 : Byte).toNat < 4 ∧ (1#8 : Byte).toNat ≤ 1 ∧ (44#8 : Byte).toNat ≤ (44#8 : Byte).toNat ∧
      (44#8 : Byte).toNat ≤ 44 ∧
      (0#8 : Byte).toNat ≤ (59#8 : Byte).toNat ∧ (59#8 : Byte).toNat ≤ 59 ∧ (3#8 : Byte).toNat = (3 : Fin 4).val) ∧
    ¬ ((45#8 : Byte).toNat ≤ 44) ∧ (15#8 : Byte).toNat ≤ 15 ∧ 15 < (16#8 : Byte).toNat :=
  ⟨fun _ _ => asking_ready _ _ _, by decide, by decide, by decide, by decide⟩

theorem witness_NodeRecordRoundTrip :
    nodeRecordInRange ⟨⟨some (-524288, 524287), 64⟩, ⟨none, 0⟩, ⟨some (-1, 0), 0⟩, ⟨none, 64⟩⟩ = true := by decide

theorem witness_SetHarmoniseAndGain :
    (∀ k p, (asking stopped k 1#8 p).asksReady k 1#8 p []) ∧
    ((1#8 : Byte).toNat ≤ 1 ∧ (0#8 : Byte).toNat ≤ 1 ∧ (64 ≤ 64 ∧ 64 ≤ 1023) ∧ (64 ≤ 1023 ∧ 1023 ≤ 1023) ∧ 64 ≤ 1023) ∧
    ¬ ((2#8 : Byte).toNat ≤ 1) ∧ 1023 < 65536 ∧ stopped.hu.settings.gmin ≤ stopped.hu.settings.gmax ∧
      4 ≤ (4#8 : Byte).toNat ∧
    (3#8 : Byte).toNat = (3 : Camera).val :=
  ⟨fun _ _ => asking_ready _ _ _, by decide, by decide, by decide, by decide, by decide, by decide⟩

theorem witness_GainUpdate :
    (HU.reset.settings.auto = true ∧ HU.reset.settings.nmin ≤ (workedTotals.seams.get 0).n ∧
      0 < (workedTotals.seams.get 3).sb + (workedTotals.seams.get 0).sa ∧
        HU.reset.settings.gmin ≤ HU.reset.gains.get 0 ∧
      HU.reset.gains.get 0 ≤ HU.reset.settings.gmax ∧ HU.reset.settings.gmin ≤ HU.reset.settings.gmax) ∧
    (Totals.zero.seams.get 3).n < HU.reset.settings.nmin ∧
      (Totals.zero.seams.get 0).n < HU.reset.settings.nmin := by decide

theorem witness_FaultRecording :
    (stopped.fu.policy.get .skip).masked = false ∧ stopped.fu.first = none ∧
    faulty.fu.first = some ⟨⟨.cam 1, .skip, 3#32, some 7#16, none, none⟩, false⟩ ∧
    (({ stopped with fu := { FU.reset with policy := .all ⟨true, false⟩ } } : State).fu.policy.get .skip).masked =
      true := by decide

theorem witness_NoticeRequests :
    (∀ k p, (asking stopped k 1#8 p).asksReady k 1#8 p []) ∧ ¬ (1 ≤ (0#8 : Byte).toNat ∧ (0#8 : Byte).toNat ≤ 8) ∧
    ¬ (1 ≤ (9#8 : Byte).toNat ∧ (9#8 : Byte).toNat ≤ 8) ∧ 1 ≤ (8#8 : Byte).toNat ∧ (8#8 : Byte).toNat ≤ 8 ∧
    ((1#8 : Byte).toNat ≤ 1 ∧ (3#8 : Byte).toNat < 4) ∧ ¬ ((4#8 : Byte).toNat < 4) :=
  ⟨fun _ _ => asking_ready _ _ _, by decide, by decide, by decide, by decide, by decide, by decide⟩

theorem witness_NoticeRequests_level :
    (NQ.reset.lawful ∧ NQ.reset.activeHigh = false ∧ NQ.reset.level = true) ∧
    ({ NQ.reset with activeHigh := true } : NQ).lawful ∧ ({ NQ.reset with activeHigh := true } : NQ).activeHigh = true :=
  ⟨⟨⟨by decide, by decide, by decide, by decide, by decide⟩, rfl, rfl⟩,
    ⟨by decide, by decide, by decide, by decide, by decide⟩, rfl⟩

theorem witness_NoticeRaising :
    ({ NQ.reset with policy := { NQ.reset.policy with stale := ⟨true, 1⟩ } }.policy.get .stale).masked = true ∧
    (workedQueue.policy.get .stale).masked = false ∧
    (∀ x ∈ workedQueue.queue, ¬ (x.kind = .stale ∧ x.source = .cam 1 ∧ x.detail = 0)) ∧ workedQueue.queue.length < 32 ∧
    (∀ x ∈ fullQueue.queue, ¬ (x.kind = .viewTaken ∧ x.source = .view 3 ∧ x.detail = 3)) ∧ 32 ≤ fullQueue.queue.length ∧
    (∀ r ∈ fullQueue.queue, (fullQueue.policy.get .viewTaken).priority ≤ r.priority) ∧
    ∀ x ∈ fullQueue.queue, ¬ (x.kind = .stale ∧ x.source = .cam 1 ∧ x.detail = 0) := by decide +kernel

/-- The record of 9.9 that STALE/CAM3 coalesces into, with what stands before and behind it. -/
theorem witness_NoticeRaising_coalesces :
    workedQueue.queue = workedQueue.queue.take 2 ++
      ⟨.stale, .cam 3, 0, 4133333#32, 4199999#32, 3, 1⟩ :: workedQueue.queue.drop 3 ∧
    ∀ x ∈ workedQueue.queue.take 2, ¬ (x.kind = .stale ∧ x.source = .cam 3 ∧ x.detail = 0) := by decide +kernel

/-- The record of 9.10 that STALE/CAM1 displaces, with what stands before and behind it. -/
theorem witness_NoticeRaising_displaces :
    fullQueue.queue = fullQueue.queue.take 31 ++ ⟨.viewTaken, .view 1, 1, 0#32, 0#32, 1, 0⟩ :: [] ∧
    (0 : Fin 4) < (fullQueue.policy.get .stale).priority ∧ (∀ x ∈ fullQueue.queue.take 31, (0 : Fin 4) ≤ x.priority) ∧
    ∀ x ∈ ([] : List Notice), (0 : Fin 4) < x.priority := by decide +kernel

theorem witness_SampleOfTaps :
    (0 ≤ (81856 : Int) ∧ (81856 : Int) ≤ 64 * (((1280 : Nat) : Int) - 1) ∧ 0 ≤ (61376 : Int) ∧
      (61376 : Int) ≤ 64 * (((960 : Nat) : Int) - 1)) ∧ (81856 : Int).toNat % 64 = 0 := by decide

theorem witness_BlendAndPack :
    (∀ m ∈ [(⟨0, 40, 125, 111, 140⟩ : Member), ⟨1, 24, 255, 0, 255⟩], m.yg ≤ 255 ∧ m.cb ≤ 255 ∧ m.cr ≤ 255) ∧
    0 < ([(⟨0, 40, 125, 111, 140⟩ : Member), ⟨1, 24, 255, 0, 255⟩].map Member.weight).sum ∧
    (([] : List Member).map Member.weight).sum = 0 ∧
    [(⟨1#8, 2#8, 3#8⟩ : Yuv), ⟨4#8, 5#8, 6#8⟩][2 * 0 + 1]? = some ⟨4#8, 5#8, 6#8⟩ := by decide

/-- The engine at CAM1's pixel: its sample still missing, and arrived. -/
theorem witness_LineCompletes_pixel :
    ∃ set, composing.ce.set = some set ∧ composing.ce.state = .composing ∧ composing.ce.pixels.length < 720 ∧
      set.view.isSome = true ∧ contribution composing.nodes set composing.ce.cut 0 3 1 = some contributed ∧
      composing.ce.samples.find? (fun e => e.1 == 1) = none ∧
      ∀ c k, contribution composing.nodes set composing.ce.cut 0 3 c = some k →
        [((1 : Camera), (⟨90#8, 100#8, 110#8⟩ : Yuv))].find? (fun e => e.1 == c) = some (c, ⟨90#8, 100#8, 110#8⟩) :=
  ⟨_, rfl, rfl, by decide, rfl, composing_contributes _ rfl, rfl, fun c k h => by
    match c with
    | 1 => rfl
    | 0 | 2 | 3 => cases h⟩

theorem witness_LineCompletes :
    (∀ n, n = 959 ∨ n = 958 →
      (inFrame .composing n (List.replicate 720 ⟨1#8, 2#8, 3#8⟩)).ce.pixels.length = 720 ∧ n ≤ 959 ∧
      (inFrame .composing n (List.replicate 720 ⟨1#8, 2#8, 3#8⟩)).op.fifo.length < 3) ∧
    (inFrame .composing 958 []).ce.state = .composing ∧ [(955, ([] : List OutPair)), (956, []), (957, [])].length = 3 :=
  ⟨fun n h => ⟨List.length_replicate, by omega, Nat.zero_lt_succ 2⟩, rfl, rfl⟩

/-- The port at some line period, the next one due. -/
def atPeriod (q : Nat) (fifo : List (Nat × List OutPair)) : State :=
  let s := inFrame .full 9 []
  { s with op := { s.op with counter := q, fifo := fifo } }

theorem witness_LinePeriods :
    (∀ q fifo, (atPeriod q fifo).op.idle = false ∧ (atPeriod q fifo).op.inFrame = true ∧
      1000#32 + 32#32 * BitVec.ofNat 32 (q + 1) = (atPeriod q fifo).op.origin + 32#32 * BitVec.ofNat 32 (q + 1)) ∧
    (1000#32 + 32#32 * BitVec.ofNat 32 (3 + 1) ≠ (atPeriod 3 []).pu.compare ∧ 4 ≤ 3 + 1) ∧ ¬ (4 ≤ 2 + 1) ∧
    (962 + 1 ≤ 963 ∧ (atPeriod 962 [(959, [])]).op.fifo = (962 + 1 - 4, []) :: [] ∧
      1000#32 + 32#32 * BitVec.ofNat 32 (962 + 1) ≠ (atPeriod 962 []).pu.compare) ∧
    (∀ l rest, (atPeriod 962 []).op.fifo ≠ (962 + 1 - 4, l) :: rest) ∧ (atPeriod 962 []).ce.set = some emptySet :=
  ⟨fun _ _ => ⟨rfl, rfl, rfl⟩, by decide, by decide, ⟨by decide, rfl, by decide⟩, nofun, rfl⟩

/-- A port that emits a line: its first pair is on clocks 144 and 145, its last on 862 and 863. -/
theorem witness_LinePeriods_pins :
    let o := { OP.reset with idle := false, inFrame := true, counter := 4, emitting := some (fillLine ⟨16#8, 128#8, 129#8⟩) }
    144 + (2 * 359 + 1) < 864 ∧ OP.reset.idle = true ∧ (fillLine ⟨16#8, 128#8, 129#8⟩)[359]? = some ⟨16#8, 16#8, 128#8, 129#8⟩ ∧
    o.pins 863 = ⟨false, false, true, 16#8, 129#8⟩ ∧ o.pins 144 = ⟨false, false, true, 16#8, 128#8⟩ := by decide +kernel

theorem witness_OutputFrameStarts :
    due.pu.run = .running ∧ 1000#32 = due.pu.compare ∧ due.ce.state = .idle ∧ due.vs.selection = .nonePending ∧
    ({ due with vs := views.vs } : State).vs.selection = .slot 1 ∧
    ({ due with vs := { views.vs with selection := .withdraw } } : State).vs.selection = .withdraw ∧
    (views.vs.slots.get 0).state = .active ∧ (∀ v : Fin 4, (due.vs.slots.get v).state ≠ .active) ∧
    (due.cr.get 0).qual = .disabled := by decide

/-- `due` with CAM1 in some state and with some ring. -/
def offering (q : Qual) (ring : Ring) : State :=
  let s := cam1 due (port q)
  { s with fmc := { s.fmc with rings := s.fmc.rings.set 1 ring } }

theorem offering_starts (q : Qual) (ring : Ring) :
    ∃ s' set, exec (.outputFrameStart 1000#32) (offering q ring) = .next s' ∧ s'.ce.set = some set ∧
      s'.fu.withheld.get 1 = false :=
  have h : exec (.outputFrameStart 1000#32) (offering q ring) =
      .next (((offering q ring).arrive 1000#32).startFrame 1000#32) := by
    show execOutputFrameStart 1000#32 (offering q ring) = _
    unfold execOutputFrameStart
    exact if_pos ⟨rfl, rfl, rfl⟩
  have ⟨set, hs⟩ := State.startFrame_set ((offering q ring).arrive 1000#32) 1000#32
  ⟨_, set, h, hs, by rw [State.startFrame_fu]; exact (by decide : (FU.reset.evaluate 1).withheld.get 1 = false)⟩

theorem witness_FrameTakes :
    (∀ q ring, (offering q ring).pu.run = .running ∧ 1000#32 = (offering q ring).pu.compare ∧
      (offering q ring).ce.state = .idle ∧
      ((offering q ring).cr.get 1).descriptor = some descriptor ∧ ((offering q ring).cr.get 1).qual = q ∧
      (offering q ring).fmc.rings.get 1 = ring ∧
      ∃ s' set, exec (.outputFrameStart 1000#32) (offering q ring) = .next s' ∧ s'.ce.set = some set ∧
        s'.fu.withheld.get 1 = false) ∧
    Ring.lawful ⟨.ready 1#32 1000#32 5#16, .held 1#32 2#32 3#16 false false, .filling 9#32⟩ ∧
    ((1000#32 - 1000#32 : Stamp).toNat ≤ due.pu.maxAge ∧ due.pu.maxAge < (1000#32 - 4294918295#32 : Stamp).toNat ∧
      (1000#32 - 4294918296#32 : Stamp).toNat ≤ due.pu.maxAge) ∧
    (∀ i : Fin 3, ((⟨.free, .held 1#32 2#32 3#16 false false, .filling 9#32⟩ : Ring).get i).isReady = false) ∧
    ∀ (i : Fin 3) (o e : Stamp) (n : Half), (⟨.free, .held 1#32 2#32 3#16 true false, .free⟩ : Ring).get i ≠ .held o e n false false := by
  refine ⟨fun q ring => ⟨rfl, rfl, rfl, rfl, rfl, rfl, ?_⟩, ⟨by decide, by decide, by decide⟩, by decide, by decide, ?_⟩
  · exact offering_starts q ring
  · intro i o e n
    match i with
    | 0 | 1 | 2 => exact fun h => by simp [Trio.get] at h

theorem witness_FrameEnds :
    let s := inFrame .finished 0 []
    let s : State := { s with op := { s.op with counter := 963 } }
    s.ce.set = some emptySet ∧ s.ce.state = .finished ∧ s.op.counter = 963 ∧ 31848#32 = emptySet.start + 30848#32 ∧
    s.pu.run = .running ∧ ({ s with pu := { s.pu with run := .stopping } } : State).pu.run = .stopping ∧
      s.ce.cut.get 0 = false ∧
    ({ s.ce with cut := .all true } : CE).cut.get 0 = true := by decide

end Sys2Proof.Tests
end

section
/-! Stages F, G and H: the gain, the rounded weighted mean, and the packing of pairs (R16, R18, R20). -/
namespace Sys2Proof.Machine

/-! ### Stage F -/

theorem gained_le (y : Byte) (g : Nat) : gained y g ≤ 255 := Nat.min_le_left _ _

/-- A gain of 256 is a factor of one: the rounding half falls away. -/
theorem gained_unit (y : Byte) : gained y 256 = y.toNat := by
  have hy : y.toNat < 256 := y.isLt
  unfold gained
  omega

/-! ### Stage G -/

/-- Rounding with half the divisor gives the exact quotient where there is one. -/
theorem mul_add_half_div {t : Nat} (ht : 0 < t) (b : Nat) : (t * b + t / 2) / t = b := by
  rw [Nat.mul_add_div ht, Nat.div_eq_of_lt (Nat.div_lt_self ht Nat.one_lt_two), Nat.add_zero]

theorem sum_weight_mul_le {ms : List Member} {f : Member → Nat} {b : Nat} (hf : ∀ m ∈ ms, f m ≤ b) :
    (ms.map fun m => m.weight * f m).sum ≤ weightSum ms * b := by
  rw [weightSum, ← List.sum_map_mul_right]
  exact List.sum_le_sum fun m hm => Nat.mul_le_mul_left _ (hf m hm)

/-- Byte values have a byte as their rounded weighted mean, so Stage G's byte is the mean itself (R18). -/
theorem weightedMean_toNat {ms : List Member} {f : Member → Nat} (hw : 0 < weightSum ms)
    (hf : ∀ m ∈ ms, f m ≤ 255) :
    (weightedMean ms f).toNat = ((ms.map fun m => m.weight * f m).sum + weightSum ms / 2) / weightSum ms := by
  have hle : ((ms.map fun m => m.weight * f m).sum + weightSum ms / 2) / weightSum ms ≤ 255 :=
    calc
      _ ≤ (weightSum ms * 255 + weightSum ms / 2) / weightSum ms :=
        Nat.div_le_div_right (Nat.add_le_add_right (sum_weight_mul_le hf) _)
      _ = 255 := mul_add_half_div hw 255
  exact Nat.mod_eq_of_lt (Nat.lt_succ_of_le hle)

/-- One camera alone: its weight cancels. -/
theorem weightedMean_singleton_toNat {m : Member} {f : Member → Nat} (hw : 0 < m.weight) (hf : f m ≤ 255) :
    (weightedMean [m] f).toNat = f m := by
  have hsum : weightSum [m] = m.weight := List.sum_singleton
  rw [weightedMean_toNat (hsum ▸ hw) (by simpa using hf), hsum, List.map_singleton, List.sum_singleton]
  exact mul_add_half_div hw (f m)

theorem blend_of_weightSum_pos (fill : Yuv) {ms : List Member} (hw : 0 < weightSum ms) :
    blend fill ms = ⟨weightedMean ms Member.yg, weightedMean ms Member.cb, weightedMean ms Member.cr⟩ :=
  if_neg hw.ne'

theorem blend_of_weightSum_zero (fill : Yuv) {ms : List Member} (hw : weightSum ms = 0) : blend fill ms = fill :=
  if_pos hw

/-! ### Stage H -/

/-- The half-up mean of two bytes is a byte (R20). -/
theorem meanUp_toNat (a b : Byte) : (meanUp a b).toNat = (a.toNat + b.toNat + 1) / 2 := by
  have ha : a.toNat < 256 := a.isLt
  have hb : b.toNat < 256 := b.isLt
  exact Nat.mod_eq_of_lt (by omega)

theorem length_packLine : ∀ l : List Yuv, (packLine l).length = l.length / 2
  | [] => rfl
  | [_] => by simp [packLine]
  | _ :: _ :: r => by
    have ih := length_packLine r
    simp only [packLine, List.length_cons, ih]
    omega

/-- Pair `m` of the packed line is made of the pixels `2 * m` and `2 * m + 1`, whatever they are (R20). -/
theorem packLine_getElem? {a b : Yuv} :
    ∀ {l : List Yuv} {m : Nat}, l[2 * m]? = some a → l[2 * m + 1]? = some b →
      (packLine l)[m]? = some ⟨a.y, b.y, meanUp a.cb b.cb, meanUp a.cr b.cr⟩
  | [], _, ha, _ => nomatch ha
  | [_], _, _, hb => by simp at hb
  | p :: q :: r, 0, ha, hb => by
    obtain rfl : p = a := Option.some.inj ha
    obtain rfl : q = b := Option.some.inj hb
    rfl
  | _ :: _ :: r, m + 1, ha, hb => packLine_getElem? (l := r) (m := m) ha hb

end Sys2Proof.Machine

namespace Sys2Proof.Proofs
open Sys2Proof Sys2Proof.Machine

/-- Settles O54, stage by stage: `gained_unit`; the mean of bytes is a byte (`weightedMean_toNat`); the pairs of a line
(`packLine_getElem?`). -/
theorem blendAndPack : Obligations.BlendAndPack := by
  refine ⟨fun y g => ⟨rfl, gained_le y g, gained_unit y⟩, fun fill ms hms => ⟨fun hw => ?blended, ?filled, ?alone⟩,
    fun l m a b ha hb => ⟨length_packLine l, ?packed⟩⟩
  case blended =>
    rw [blend_of_weightSum_pos fill hw]
    exact ⟨weightedMean_toNat hw fun m hm => (hms m hm).1, weightedMean_toNat hw fun m hm => (hms m hm).2.1,
      weightedMean_toNat hw fun m hm => (hms m hm).2.2⟩
  case filled => exact blend_of_weightSum_zero fill
  case alone =>
    rintro m rfl hw
    obtain ⟨hy, hcb, hcr⟩ := hms m (List.mem_singleton_self m)
    rw [blend_of_weightSum_pos fill (by simpa [weightSum] using hw)]
    exact ⟨weightedMean_singleton_toNat hw hy, weightedMean_singleton_toNat hw hcb,
      weightedMean_singleton_toNat hw hcr⟩
  case packed => exact ⟨_, packLine_getElem? ha hb, rfl, rfl, meanUp_toNat a.cb b.cb, meanUp_toNat a.cr b.cr⟩

end Sys2Proof.Proofs
end

section
/-! Requests as the executor serves them: the state in which a request runs, what an answer of each form leaves, and the
guards of steps 2 and 3 of R172. -/
namespace Sys2Proof.Machine

/-! ### Serving -/

/-- The state in which a request runs: its stamp has come, and its frame has left the head of the inbox (R172). -/
def State.taken (s : State) (t : Stamp) (rest : List Frame) : State :=
  (s.arrive t).setLc { s.lc with inbox := rest }

theorem State.taken_vs (s : State) (t : Stamp) (rest : List Frame) : (s.taken t rest).vs = s.vs := rfl

section
variable {s : State} {kind tag : Byte} {p : List Byte} {rest : List Frame} {t : Stamp} {body : State → Served}

theorem serve_taken (h : s.asks kind tag p rest) :
    serve kind t tag p body s = .next ((body (s.taken t rest)).finish kind tag) :=
  serve_asks h t body

theorem serve_of_refuse {st : Status} (h : s.asks kind tag p rest)
    (hbody : body (s.taken t rest) = refuse (s.taken t rest) st) :
    serve kind t tag p body s = .next (s.answered t rest kind tag st []) := by
  rw [serve_taken h, hbody]
  rfl

theorem serve_of_accept (h : s.asks kind tag p rest) (hbody : body (s.taken t rest) = accept (s.taken t rest)) :
    serve kind t tag p body s = .next (s.answered t rest kind tag .ok []) := by
  rw [serve_taken h, hbody]
  rfl

/-- A request that replaces the view store's record replaces nothing else. -/
theorem serve_of_accept_setVs {vs : VS} (h : s.asks kind tag p rest)
    (hbody : body (s.taken t rest) = accept ((s.taken t rest).setVs vs)) :
    serve kind t tag p body s = .next (({ s with vs := vs } : State).answered t rest kind tag .ok []) := by
  rw [serve_taken h, hbody]
  rfl

theorem State.asksReady.operational (h : s.asksReady kind tag p rest) (t : Stamp) :
    (s.taken t rest).pu.run.operational = true :=
  operational_of_ready h.ready

end

/-! ### Guards -/

theorem whenReady_of_operational {s : State} (hs : s.pu.run.operational = true) (k : Served) : whenReady s k = k :=
  if_pos hs

theorem whenLength_of_length (s : State) {p : List Byte} {n : Nat} (hp : p.length = n) (k : Served) :
    whenLength s p n k = k :=
  if_pos hp

theorem withIndex_eq_elim (s : State) (n : Nat) (k : Fin 4 → Served) :
    withIndex s n k = (indexOf n).elim (refuse s .badValue) k := by
  rw [withIndex]
  cases indexOf n <;> rfl

theorem withIndex_of_eq (s : State) {n : Nat} {i : Fin 4} (hn : n = i.val) (k : Fin 4 → Served) :
    withIndex s n k = k i :=
  (withIndex_eq_elim s n k).trans (congrArg (fun o => Option.elim o (refuse s .badValue) k) (indexOf_some.mpr hn))

theorem withIndex_of_le (s : State) {n : Nat} (hn : 4 ≤ n) (k : Fin 4 → Served) :
    withIndex s n k = refuse s .badValue :=
  (withIndex_eq_elim s n k).trans (congrArg (fun o => Option.elim o (refuse s .badValue) k) (indexOf_none.mpr hn))

/-- A payload of one byte that names a camera or a slot passes its guards. -/
theorem guards_of_eq {s : State} (hs : s.pu.run.operational = true) {b : Byte} {i : Fin 4} (hb : b.toNat = i.val)
    (k : Fin 4 → Served) : (whenReady s <| whenLength s [b] 1 <| withIndex s (field [b] 0 1) k) = k i := by
  rw [whenReady_of_operational hs, whenLength_of_length s List.length_singleton,
    withIndex_of_eq s ((field_one b []).trans hb)]

/-- A payload of one byte that names no camera and no slot is BAD_VALUE. -/
theorem guards_of_le {s : State} (hs : s.pu.run.operational = true) {b : Byte} (hb : 4 ≤ b.toNat)
    (k : Fin 4 → Served) :
    (whenReady s <| whenLength s [b] 1 <| withIndex s (field [b] 0 1) k) = refuse s .badValue := by
  rw [whenReady_of_operational hs, whenLength_of_length s List.length_singleton,
    withIndex_of_le s (hb.trans_eq (field_one b []).symm)]

end Sys2Proof.Machine
end

section
/-! SELECT_VIEW (R40, R41): what it comes to in each state of the slot that it names. -/
namespace Sys2Proof.Machine

theorem moveSlots_get (q : Quad ViewSlot) (a b : ViewState) (w : Fin 4) :
    (moveSlots q a b).get w = if (q.get w).state = a then (q.get w).enter b else q.get w :=
  Quad.get_map q _ w

/-- With a READY slot made PENDING in place of any other, that slot alone is PENDING. -/
theorem select_get {q : Quad ViewSlot} {v : Fin 4} (hv : (q.get v).state = .ready) (w : Fin 4) :
    ((moveSlots q .pending .ready).set v (((moveSlots q .pending .ready).get v).enter .pending)).get w =
      if w = v then (q.get w).enter .pending
      else if (q.get w).state = .pending then (q.get w).enter .ready else q.get w := by
  rw [Quad.get_set]
  split
  case isTrue hw => rw [hw, moveSlots_get, if_neg (by simp [hv])]
  case isFalse => exact moveSlots_get q .pending .ready w

section
variable {s : State} (hs : s.pu.run.operational = true) {b : Byte}
include hs

theorem reqSelectView_of_le (hb : 4 ≤ b.toNat) : reqSelectView [b] s = refuse s .badValue :=
  guards_of_le hs hb _

variable {v : Fin 4} (hb : b.toNat = v.val)
include hb

theorem reqSelectView_of_not_closed
    (hv : (s.vs.slots.get v).state = .empty ∨ (s.vs.slots.get v).state = .loading ∨
      (s.vs.slots.get v).state = .closing) :
    reqSelectView [b] s = refuse s .wrongState := by
  refine (guards_of_eq hs hb _).trans ?_
  rcases hv with hv | hv | hv <;> rw [hv]

theorem reqSelectView_of_pending (hv : (s.vs.slots.get v).state = .pending) : reqSelectView [b] s = accept s :=
  (guards_of_eq hs hb _).trans (by rw [hv])

theorem reqSelectView_of_ready (hv : (s.vs.slots.get v).state = .ready) :
    reqSelectView [b] s =
      accept (s.setVs
        { s.vs with
          slots :=
            (moveSlots s.vs.slots .pending .ready).set v
              (((moveSlots s.vs.slots .pending .ready).get v).enter .pending)
          selection := .slot v }) :=
  (guards_of_eq hs hb _).trans (by rw [hv])

theorem reqSelectView_of_active (hv : (s.vs.slots.get v).state = .active) :
    reqSelectView [b] s =
      accept (s.setVs { s.vs with slots := moveSlots s.vs.slots .pending .ready, selection := .nonePending }) :=
  (guards_of_eq hs hb _).trans (by rw [hv])

end

theorem exec_selectView_of_ne {b : Byte} (hb : b ≠ 0xFF#8) (t : Stamp) (g : Byte) (s : State) :
    exec (.selectView t g [b]) s = serve 0x23#8 t g [b] (reqSelectView [b]) s :=
  if_neg fun h => hb (List.head_eq_of_cons_eq h)

theorem exec_selectViewNone (t : Stamp) (g : Byte) (s : State) :
    exec (.selectViewNone t g [0xFF#8]) s = serve 0x23#8 t g [0xFF#8] reqSelectViewNone s :=
  rfl

end Sys2Proof.Machine

namespace Sys2Proof.Proofs
open Sys2Proof Sys2Proof.Machine

/-- Settles O43, by the state of the slot that the request names. -/
theorem selectsView : Obligations.SelectsView := by
  refine ⟨fun s t g b rest h hb => ?_, fun s t g rest h => ?none⟩
  · have hs := h.operational t
    rw [exec_selectView_of_ne hb]
    refine ⟨fun hle => ?outOfRange, fun v hv => ⟨fun hx => ?refused, fun hx => ?pending, fun hx => ?ready,
      fun hx => ?active⟩⟩
    case outOfRange => exact serve_of_refuse h.asks (reqSelectView_of_le hs hle)
    case refused => exact serve_of_refuse h.asks (reqSelectView_of_not_closed hs hv hx)
    case pending => exact serve_of_accept h.asks (reqSelectView_of_pending hs hv hx)
    case ready => exact ⟨_, serve_of_accept_setVs h.asks (reqSelectView_of_ready hs hv hx), select_get hx⟩
    case active =>
      exact ⟨_, serve_of_accept_setVs h.asks (reqSelectView_of_active hs hv hx), moveSlots_get _ _ _⟩
  case none =>
    rw [exec_selectViewNone]
    exact ⟨_, serve_of_accept_setVs h.asks (whenReady_of_operational (h.operational t) _), moveSlots_get _ _ _⟩

end Sys2Proof.Proofs
end

section
/-! The payload of LOAD_NODES: its fixed bytes, the records behind them, and what a record may hold (R32, R33, R34). -/
namespace Sys2Proof.Machine

/-! ### Bytes -/

theorem field_one_eq_getD : ∀ (p : List Byte) (o : Nat), field p o 1 = (p.getD o 0#8).toNat
  | [], _ => by simp [field, leNat]
  | b :: r, 0 => by simp
  | _ :: r, o + 1 => field_one_eq_getD r o

/-- Of equally long parts, part `k` lies `k` lengths into the whole. -/
theorem take_drop_flatten {α : Type} {m : Nat} {x : List α} :
    ∀ {l : List (List α)} {k : Nat}, (∀ y ∈ l, y.length = m) → l[k]? = some x → (l.flatten.drop (m * k)).take m = x
  | y :: l, 0, hl, hk => by
    obtain rfl : y = x := Option.some.inj hk
    rw [Nat.mul_zero, List.drop_zero, List.flatten_cons, List.take_left' (hl y List.mem_cons_self)]
  | y :: l, k + 1, hl, hk => by
    have hy : y.length = m := hl y List.mem_cons_self
    rw [List.flatten_cons, Nat.mul_succ, Nat.add_comm, ← List.drop_drop, List.drop_left' hy]
    exact take_drop_flatten (fun z hz => hl z (List.mem_cons_of_mem y hz)) hk

/-! ### The payload -/

/-- The payload of LOAD_NODES: slot, first node, count, records (R174). -/
def loadPayload (b : Byte) (first : Nat) (n : Byte) (recs : List (List Byte)) : List Byte :=
  b :: leBytes 2 first ++ n :: recs.flatten

section
variable {b n : Byte} {first : Nat} {recs : List (List Byte)}

theorem loadPayload_slot : field (loadPayload b first n recs) 0 1 = b.toNat := field_one b _

theorem loadPayload_count : field (loadPayload b first n recs) 3 1 = n.toNat :=
  field_one_eq_getD _ 3

theorem loadPayload_first (hfirst : first < 65536) : field (loadPayload b first n recs) 1 2 = first := by
  change leNat (leBytes 2 first) = first
  exact leNat_leBytes hfirst

theorem loadPayload_length (hrecs : ∀ x ∈ recs, x.length = 28) :
    (loadPayload b first n recs).length = 4 + 28 * recs.length := by
  have hsum : recs.flatten.length = 28 * recs.length := by
    rw [List.length_flatten, List.map_congr_left hrecs, List.map_const', List.sum_replicate, smul_eq_mul,
      Nat.mul_comm]
  simp only [loadPayload, List.length_append, List.length_cons, leBytes_length, hsum]
  omega

/-- The records that the payload carries are those that the host has put into it. -/
theorem nodeRecordsOf_loadPayload (hrecs : ∀ x ∈ recs, x.length = 28) :
    nodeRecordsOf (loadPayload b first n recs) recs.length = recs.map nodeRecordOf := by
  refine List.ext_getElem (by simp [nodeRecordsOf]) fun k hk hk' => ?_
  have hpart : ((loadPayload b first n recs).drop (4 + 28 * k)).take 28 = recs[k]'(by simpa using hk') := by
    rw [← List.drop_drop]
    exact take_drop_flatten hrecs (List.getElem?_eq_getElem _)
  simp only [nodeRecordsOf, List.getElem_map, List.getElem_range, hpart]

end

/-! ### Records -/

theorem coordInRange_iff (x : Int) : coordInRange x = true ↔ -524288 ≤ x ∧ x ≤ 524287 := by
  simp [coordInRange]

theorem NodeCam.inRange_iff (k : NodeCam) :
    k.inRange = true ↔
      k.weight ≤ 64 ∧ ∀ u v, k.coord = some (u, v) → (-524288 ≤ u ∧ u ≤ 524287) ∧ (-524288 ≤ v ∧ v ≤ 524287) := by
  obtain ⟨coord, w⟩ := k
  cases coord with
  | none => simp [NodeCam.inRange]
  | some c =>
    obtain ⟨u, v⟩ := c
    simp only [NodeCam.inRange, Bool.and_eq_true, coordInRange_iff, decide_eq_true_eq, Option.some.injEq,
      Prod.mk.injEq, and_imp, forall_apply_eq_imp_iff, forall_eq', and_comm]

theorem nodeRecordInRange_iff (r : NodeRecord) : nodeRecordInRange r = true ↔ ∀ c : Camera, (r.get c).inRange = true := by
  simp [nodeRecordInRange, Quad.toList, Quad.get, Fin.forall_fin_succ]

theorem nodeRecordOf_get (x : List Byte) (c : Camera) :
    (nodeRecordOf x).get c = nodeCamOf ((x.drop (7 * c.val)).take 7) :=
  Quad.get_ofFn _ c

/-- The records of a payload are in range exactly when each camera's part of each of them is (R33). -/
theorem nodeRecords_inRange_iff (recs : List (List Byte)) :
    (recs.map nodeRecordOf).all nodeRecordInRange = true ↔
      ∀ x ∈ recs, ∀ c : Camera,
        let k := nodeCamOf ((x.drop (7 * c.val)).take 7)
        k.weight ≤ 64 ∧ ∀ u v, k.coord = some (u, v) → (-524288 ≤ u ∧ u ≤ 524287) ∧ (-524288 ≤ v ∧ v ≤ 524287) := by
  simp only [List.all_map, List.all_eq_true, Function.comp_apply, nodeRecordInRange_iff, nodeRecordOf_get,
    NodeCam.inRange_iff]

/-! ### The node table -/

theorem putNodes_cons (nodes : List (Nat × NodeRecord)) (first : Nat) (r : NodeRecord) (rs : List NodeRecord) :
    putNodes nodes first (r :: rs) = putNodes (keyPut nodes first r) (first + 1) rs := rfl

theorem keyGet_putNodes_outside {first i : Nat} :
    ∀ {rs : List NodeRecord} (nodes : List (Nat × NodeRecord)), i < first ∨ first + rs.length ≤ i →
      keyGet (putNodes nodes first rs) i = keyGet nodes i
  | [], _, _ => rfl
  | r :: rs, nodes, h => by
    rw [List.length_cons] at h
    rw [putNodes_cons, keyGet_putNodes_outside _ (by omega), keyGet_keyPut_other _ _ (by omega)]

theorem keyGet_putNodes_inside {r : NodeRecord} :
    ∀ {rs : List NodeRecord} {k : Nat} (nodes : List (Nat × NodeRecord)) (first : Nat), rs[k]? = some r →
      keyGet (putNodes nodes first rs) (first + k) = some r
  | a :: rs, 0, nodes, first, h => by
    obtain rfl : a = r := Option.some.inj h
    rw [Nat.add_zero, putNodes_cons]
    exact (keyGet_putNodes_outside _ (.inl first.lt_add_one)).trans (keyGet_keyPut_same nodes first a)
  | a :: rs, k + 1, nodes, first, h => by
    rw [putNodes_cons, ← Nat.add_assoc, Nat.add_right_comm]
    exact keyGet_putNodes_inside (rs := rs) (k := k) (keyPut nodes first a) (first + 1) h

end Sys2Proof.Machine
end

section
/-! CLEAR_VIEW and LOAD_NODES (R31, R33): what each comes to in each state of the slot that it names. -/
namespace Sys2Proof.Machine

/-- The check with which LOAD_NODES begins: its length is that of its count, and its nodes lie in the table (R30, R33). -/
def loadWellFormed (p : List Byte) : Prop :=
  4 ≤ p.length ∧ p.length = 4 + 28 * field p 3 1 ∧ nodeRunOk (field p 1 2) (field p 3 1) = true

section
variable {s : State} (hs : s.pu.run.operational = true)
include hs

/-! ### CLEAR_VIEW -/

theorem reqClearView_of_le {b : Byte} (hb : 4 ≤ b.toNat) : reqClearView [b] s = refuse s .badValue :=
  guards_of_le hs hb _

theorem reqClearView_of_in_use {b : Byte} {v : Fin 4} (hb : b.toNat = v.val)
    (hv : (s.vs.slots.get v).state = .closing ∨ (s.vs.slots.get v).state = .pending ∨
      (s.vs.slots.get v).state = .active) :
    reqClearView [b] s = refuse s .wrongState := by
  refine (guards_of_eq hs hb _).trans ?_
  rcases hv with hv | hv | hv <;> rw [hv]

theorem reqClearView_of_not_in_use {b : Byte} {v : Fin 4} (hb : b.toNat = v.val)
    (hv : (s.vs.slots.get v).state = .empty ∨ (s.vs.slots.get v).state = .loading ∨
      (s.vs.slots.get v).state = .ready) :
    reqClearView [b] s = accept (s.setVs (s.vs.setSlot v .reset)) := by
  refine (guards_of_eq hs hb _).trans ?_
  rcases hv with hv | hv | hv <;> rw [hv]

/-! ### LOAD_NODES -/

variable {p : List Byte}

/-- A payload of a wrong length, or with nodes outside the table, is refused whatever slot it names. -/
theorem reqLoadNodes_of_malformed (hp : ¬ loadWellFormed p) :
    reqLoadNodes p s = refuse s .badValue :=
  (whenReady_of_operational hs _).trans (if_neg hp)

theorem reqLoadNodes_of_le (hp : 4 ≤ field p 0 1) : reqLoadNodes p s = refuse s .badValue := by
  refine (whenReady_of_operational hs _).trans ?_
  split
  · exact withIndex_of_le s hp _
  · rfl

variable (hp : loadWellFormed p) {v : Fin 4} (hv : field p 0 1 = v.val)
include hp hv

theorem reqLoadNodes_of_closed (hne : (s.vs.slots.get v).state ≠ .empty) (hnl : (s.vs.slots.get v).state ≠ .loading) :
    reqLoadNodes p s = refuse s .wrongState := by
  refine (whenReady_of_operational hs _).trans ((if_pos hp).trans ((withIndex_of_eq s hv _).trans ?_))
  cases hx : (s.vs.slots.get v).state with
  | empty => exact absurd hx hne
  | loading => exact absurd hx hnl
  | closing | ready | pending | active => rfl

/-- In a slot that is open for loading, the records are written all or none. -/
theorem reqLoadNodes_of_open (hx : (s.vs.slots.get v).state = .empty ∨ (s.vs.slots.get v).state = .loading) :
    reqLoadNodes p s =
      if (nodeRecordsOf p (field p 3 1)).all nodeRecordInRange then
        accept (s.setVs (s.vs.setSlot v
          ⟨.loading, putNodes (s.vs.slots.get v).nodes (field p 1 2) (nodeRecordsOf p (field p 3 1))⟩))
      else refuse s .badValue := by
  refine (whenReady_of_operational hs _).trans ((if_pos hp).trans ((withIndex_of_eq s hv _).trans ?_))
  rcases hx with hx | hx <;> rw [hx]

end

theorem exec_clearView (t : Stamp) (g : Byte) (p : List Byte) (s : State) :
    exec (.clearView t g p) s = serve 0x20#8 t g p (reqClearView p) s := rfl

theorem exec_loadNodes (t : Stamp) (g : Byte) (p : List Byte) (s : State) :
    exec (.loadNodes t g p) s = serve 0x21#8 t g p (reqLoadNodes p) s := rfl

theorem nodeRunOk_iff (first count : Nat) :
    nodeRunOk first count = true ↔ 1 ≤ count ∧ count ≤ 16 ∧ first + count ≤ 2806 := by
  simp only [nodeRunOk, Bool.and_eq_true, decide_eq_true_eq, and_assoc]
  rfl

theorem loadWellFormed_loadPayload_iff {b n : Byte} {first : Nat} {recs : List (List Byte)} (hfirst : first < 65536)
    (hrecs : ∀ x ∈ recs, x.length = 28) :
    loadWellFormed (loadPayload b first n recs) ↔
      recs.length = n.toNat ∧ 1 ≤ n.toNat ∧ n.toNat ≤ 16 ∧ first + n.toNat ≤ 2806 := by
  simp only [loadWellFormed, loadPayload_length hrecs, loadPayload_count, loadPayload_first hfirst, nodeRunOk_iff]
  omega

section
variable {s : State} {g b n : Byte} {rest : List Frame} {first : Nat} {recs : List (List Byte)} (t : Stamp)
  (hfirst : first < 65536) (hrecs : ∀ x ∈ recs, x.length = 28)
  (h : s.asksReady 0x21#8 g (loadPayload b first n recs) rest)
include hfirst hrecs h

theorem exec_loadNodes_of_out_of_range
    (hout : ¬ (b.toNat < 4 ∧ 1 ≤ n.toNat ∧ n.toNat ≤ 16 ∧ first + n.toNat ≤ 2806 ∧ recs.length = n.toNat)) :
    exec (.loadNodes t g (loadPayload b first n recs)) s = .next (s.answered t rest 0x21#8 g .badValue []) := by
  rw [exec_loadNodes]
  refine serve_of_refuse h.asks ?_
  by_cases hb : b.toNat < 4
  · refine reqLoadNodes_of_malformed (h.operational t) fun hok => hout ?_
    obtain ⟨hlen, hlow, hhigh, hrun⟩ := (loadWellFormed_loadPayload_iff hfirst hrecs).mp hok
    exact ⟨hb, hlow, hhigh, hrun, hlen⟩
  · exact reqLoadNodes_of_le (h.operational t) (loadPayload_slot ▸ Nat.le_of_not_lt hb)

variable {v : Fin 4} (hv : b.toNat = v.val)
  (hrun : recs.length = n.toNat ∧ 1 ≤ n.toNat ∧ n.toNat ≤ 16 ∧ first + n.toNat ≤ 2806)
include hv hrun

theorem exec_loadNodes_of_closed (hne : (s.vs.slots.get v).state ≠ .empty)
    (hnl : (s.vs.slots.get v).state ≠ .loading) :
    exec (.loadNodes t g (loadPayload b first n recs)) s = .next (s.answered t rest 0x21#8 g .wrongState []) :=
  (exec_loadNodes t g _ s).trans <| serve_of_refuse h.asks <|
    reqLoadNodes_of_closed (h.operational t) ((loadWellFormed_loadPayload_iff hfirst hrecs).mpr hrun)
      (loadPayload_slot.trans hv) hne hnl

/-- What LOAD_NODES comes to in a slot that is open for loading: its records, in the host's own terms, all or none. -/
theorem reqLoadNodes_loadPayload
    (hx : (s.vs.slots.get v).state = .empty ∨ (s.vs.slots.get v).state = .loading) :
    reqLoadNodes (loadPayload b first n recs) (s.taken t rest) =
      if (recs.map nodeRecordOf).all nodeRecordInRange then
        accept ((s.taken t rest).setVs (s.vs.setSlot v
          ⟨.loading, putNodes (s.vs.slots.get v).nodes first (recs.map nodeRecordOf)⟩))
      else refuse (s.taken t rest) .badValue := by
  rw [reqLoadNodes_of_open (h.operational t) ((loadWellFormed_loadPayload_iff hfirst hrecs).mpr hrun)
      (loadPayload_slot.trans hv) hx, loadPayload_count, loadPayload_first hfirst, ← hrun.1,
    nodeRecordsOf_loadPayload hrecs, State.taken_vs]

theorem exec_loadNodes_of_unsound (hx : (s.vs.slots.get v).state = .empty ∨ (s.vs.slots.get v).state = .loading)
    (hbad : ¬ (recs.map nodeRecordOf).all nodeRecordInRange = true) :
    exec (.loadNodes t g (loadPayload b first n recs)) s = .next (s.answered t rest 0x21#8 g .badValue []) :=
  (exec_loadNodes t g _ s).trans <| serve_of_refuse h.asks <|
    (reqLoadNodes_loadPayload t hfirst hrecs h hv hrun hx).trans (if_neg hbad)

theorem exec_loadNodes_of_sound (hx : (s.vs.slots.get v).state = .empty ∨ (s.vs.slots.get v).state = .loading)
    (hok : (recs.map nodeRecordOf).all nodeRecordInRange = true) :
    exec (.loadNodes t g (loadPayload b first n recs)) s =
      .next
        (({ s with
            vs := s.vs.setSlot v
              ⟨.loading, putNodes (s.vs.slots.get v).nodes first (recs.map nodeRecordOf)⟩ } : State).answered t rest
          0x21#8 g .ok []) :=
  (exec_loadNodes t g _ s).trans <| serve_of_accept_setVs h.asks <|
    (reqLoadNodes_loadPayload t hfirst hrecs h hv hrun hx).trans (if_pos hok)

end

end Sys2Proof.Machine

namespace Sys2Proof.Proofs
open Sys2Proof Sys2Proof.Machine

/-- Settles O41: CLEAR_VIEW by the state of its slot; LOAD_NODES by its checks in their order, the length and the ranges,
then the slot's state, then the records, which the node table then holds from the first node on. -/
theorem clearAndLoadView : Obligations.ClearAndLoadView := by
  refine ⟨fun s t g b rest h => ?clear, fun s t g rest p h hp => ?wrongLength,
    fun s t g b n rest first recs hfirst hrecs h =>
      ⟨exec_loadNodes_of_out_of_range t hfirst hrecs h, fun v hv hlow hhigh hcount hlen => ?inRange⟩⟩
  case clear =>
    have hs := h.operational t
    rw [exec_clearView]
    exact ⟨fun hle => serve_of_refuse h.asks (reqClearView_of_le hs hle), fun v hv =>
      ⟨fun hx => serve_of_refuse h.asks (reqClearView_of_in_use hs hv hx),
        fun hx => serve_of_accept_setVs h.asks (reqClearView_of_not_in_use hs hv hx)⟩⟩
  case wrongLength =>
    rw [exec_loadNodes]
    refine serve_of_refuse h.asks (reqLoadNodes_of_malformed (h.operational t) fun hok => ?_)
    obtain ⟨hfour, hlen, -⟩ := hok
    rw [field_one_eq_getD] at hlen
    exact hp.elim (Nat.not_lt_of_le hfour) fun hne => hne hlen
  case inRange =>
    have hrun : recs.length = n.toNat ∧ 1 ≤ n.toNat ∧ n.toNat ≤ 16 ∧ first + n.toNat ≤ 2806 :=
      ⟨hlen, hlow, hhigh, hcount⟩
    have hall := nodeRecords_inRange_iff recs
    refine ⟨exec_loadNodes_of_closed t hfirst hrecs h hv hrun, fun hx => ⟨?unsound, fun hsound => ?written⟩⟩
    case unsound =>
      rintro ⟨x, hmem, c, hbad⟩
      exact exec_loadNodes_of_unsound t hfirst hrecs h hv hrun hx fun hok => hbad (hall.mp hok x hmem c)
    case written =>
      refine ⟨_, exec_loadNodes_of_sound t hfirst hrecs h hv hrun hx (hall.mpr hsound), fun i hi => ?_,
        fun k x hk => ?_⟩
      · exact keyGet_putNodes_outside _ (by rwa [List.length_map, hlen])
      · exact keyGet_putNodes_inside _ first (List.getElem?_map ▸ congrArg (Option.map nodeRecordOf) hk)

end Sys2Proof.Proofs
end

section
/-! The requests on a camera port (R56, R78, R84): the descriptor that SET_CAMERA's payload carries and the ranges of its
fields, then what SET_CAMERA and ENABLE_CAMERA come to by the state of the port that they name. -/
namespace Sys2Proof.Machine

theorem Qual.enabled_iff (q : Qual) : q.enabled = true ↔ q ≠ .disabled := by
  cases q <;> simp [Qual.enabled]

theorem Qual.enabled_eq_false {q : Qual} (h : q = .disabled) : ¬ q.enabled = true := by
  rw [Qual.enabled_iff]
  exact not_not_intro h

/-- A request that replaces one receiver replaces nothing else. -/
theorem serve_of_accept_setReceiver {s : State} {kind tag : Byte} {p : List Byte} {rest : List Frame} {t : Stamp}
    {body : State → Served} {c : Camera} {r : Receiver} (h : s.asks kind tag p rest)
    (hbody : body (s.taken t rest) = accept ((s.taken t rest).setReceiver c r)) :
    serve kind t tag p body s = .next (({ s with cr := s.cr.set c r } : State).answered t rest kind tag .ok []) := by
  rw [serve_taken h, hbody]
  rfl

/-! ### Descriptors on the wire -/

/-- Each field of the descriptor fits the bytes that carry it (R174). -/
def Descriptor.Fits (d : Descriptor) : Prop :=
  d.width < 256 ^ 2 ∧ d.height < 256 ^ 2 ∧ d.linePeriod < 256 ^ 2 ∧ d.nominal < 256 ^ 4 ∧ d.tolerance < 256 ^ 1 ∧
  d.silenceUs < 256 ^ 4 ∧ d.silenceLines < 256 ^ 2 ∧ d.acquire < 256 ^ 1 ∧ d.lose < 256 ^ 1

theorem Descriptor.bytes_length (d : Descriptor) : d.bytes.length = 19 := by
  simp only [Descriptor.bytes, List.length_append, leBytes_length]

/-- Behind the camera number, SET_CAMERA reads back the descriptor that the host has written out. -/
theorem descriptorOf_cons_bytes {d : Descriptor} (hd : d.Fits) (b : Byte) : descriptorOf (b :: d.bytes) = d := by
  obtain ⟨hwidth, hheight, hperiod, hnominal, htol, hus, hlines, hacquire, hlose⟩ := hd
  calc
    descriptorOf (b :: d.bytes) =
      { width := leNat (leBytes 2 d.width), height := leNat (leBytes 2 d.height)
        linePeriod := leNat (leBytes 2 d.linePeriod), nominal := leNat (leBytes 4 d.nominal)
        tolerance := leNat (leBytes 1 d.tolerance), silenceUs := leNat (leBytes 4 d.silenceUs)
        silenceLines := leNat (leBytes 2 d.silenceLines), acquire := leNat (leBytes 1 d.acquire)
        lose := leNat (leBytes 1 d.lose) } := rfl
    _ = d := by
      rw [leNat_leBytes hwidth, leNat_leBytes hheight, leNat_leBytes hperiod, leNat_leBytes hnominal,
        leNat_leBytes htol, leNat_leBytes hus, leNat_leBytes hlines, leNat_leBytes hacquire, leNat_leBytes hlose]

/-- The ranges of R55, field by field. -/
theorem Descriptor.inRange_iff (d : Descriptor) :
    d.inRange = true ↔
      (320 ≤ d.width ∧ d.width ≤ 1920 ∧ d.width % 2 = 0) ∧ (240 ≤ d.height ∧ d.height ≤ 1280) ∧
      (16 ≤ d.linePeriod ∧ d.linePeriod ≤ 65535) ∧ (10000 ≤ d.nominal ∧ d.nominal ≤ 200000) ∧
      (1 ≤ d.tolerance ∧ d.tolerance ≤ 20) ∧ (1000 ≤ d.silenceUs ∧ d.silenceUs ≤ 200000) ∧
      (1 ≤ d.silenceLines ∧ d.silenceLines ≤ 1280) ∧ (1 ≤ d.acquire ∧ d.acquire ≤ 15) ∧
      (1 ≤ d.lose ∧ d.lose ≤ 15) := by
  simp only [Descriptor.inRange, Bool.and_eq_true, decide_eq_true_eq, beq_iff_eq, and_assoc]

theorem exec_setCamera (t : Stamp) (g : Byte) (p : List Byte) (s : State) :
    exec (.setCamera t g p) s = serve 0x10#8 t g p (reqSetCamera p) s := rfl

theorem exec_enableCamera (t : Stamp) (g : Byte) (p : List Byte) (s : State) :
    exec (.enableCamera t g p) s = serve 0x11#8 t g p (reqEnableCamera p) s := rfl

section
variable {s : State} (hs : s.pu.run.operational = true) {b : Byte}
include hs

/-! ### SET_CAMERA -/

/-- SET_CAMERA's 20 bytes pass every check before the camera number's. -/
theorem reqSetCamera_cons_bytes (b : Byte) (d : Descriptor) :
    reqSetCamera (b :: d.bytes) s =
      withIndex s b.toNat fun c =>
        if (s.cr.get c).qual.enabled then refuse s .wrongState
        else if (descriptorOf (b :: d.bytes)).inRange then
          accept (s.setReceiver c { s.cr.get c with descriptor := some (descriptorOf (b :: d.bytes)) })
        else refuse s .badValue := by
  have hlen : (b :: d.bytes).length = 20 := congrArg Nat.succ d.bytes_length
  rw [reqSetCamera, whenReady_of_operational hs, whenLength_of_length s hlen, field_one]

theorem reqSetCamera_of_le (hb : 4 ≤ b.toNat) (d : Descriptor) : reqSetCamera (b :: d.bytes) s = refuse s .badValue :=
  (reqSetCamera_cons_bytes hs b d).trans (withIndex_of_le s hb _)

/-- An enabled port is refused whatever the fields hold. -/
theorem reqSetCamera_of_enabled {c : Camera} (hb : b.toNat = c.val) (hq : (s.cr.get c).qual ≠ .disabled)
    (d : Descriptor) : reqSetCamera (b :: d.bytes) s = refuse s .wrongState := by
  rw [reqSetCamera_cons_bytes hs, withIndex_of_eq s hb, if_pos ((Qual.enabled_iff _).mpr hq)]

/-- On a DISABLED port, the ranges decide. -/
theorem reqSetCamera_of_disabled {c : Camera} (hb : b.toNat = c.val) (hq : (s.cr.get c).qual = .disabled)
    {d : Descriptor} (hd : d.Fits) :
    reqSetCamera (b :: d.bytes) s =
      if d.inRange then accept (s.setReceiver c { s.cr.get c with descriptor := some d }) else refuse s .badValue := by
  rw [reqSetCamera_cons_bytes hs, withIndex_of_eq s hb, if_neg (Qual.enabled_eq_false hq), descriptorOf_cons_bytes hd]

/-! ### ENABLE_CAMERA -/

theorem reqEnableCamera_of_le (hb : 4 ≤ b.toNat) : reqEnableCamera [b] s = refuse s .badValue :=
  guards_of_le hs hb _

variable {c : Camera} (hb : b.toNat = c.val)
include hb

theorem reqEnableCamera_of_enabled (hq : (s.cr.get c).qual ≠ .disabled) : reqEnableCamera [b] s = accept s :=
  (guards_of_eq hs hb _).trans (if_pos ((Qual.enabled_iff _).mpr hq))

theorem reqEnableCamera_of_no_descriptor (hq : (s.cr.get c).qual = .disabled) (hd : (s.cr.get c).descriptor = none) :
    reqEnableCamera [b] s = refuse s .wrongState := by
  refine (guards_of_eq hs hb _).trans ((if_neg (Qual.enabled_eq_false hq)).trans ?_)
  rw [hd]

theorem reqEnableCamera_of_descriptor {d : Descriptor} (hq : (s.cr.get c).qual = .disabled)
    (hd : (s.cr.get c).descriptor = some d) :
    reqEnableCamera [b] s =
      accept (s.setReceiver c
        { s.cr.get c with qual := .noSignal, goodRun := 0, badRun := 0, threshold := silenceThreshold d }) := by
  refine (guards_of_eq hs hb _).trans ((if_neg (Qual.enabled_eq_false hq)).trans ?_)
  split
  case h_1 hnone => exact nomatch hd.symm.trans hnone
  case h_2 hsome => rw [Option.some.inj (hd.symm.trans hsome)]

end

end Sys2Proof.Machine

namespace Sys2Proof.Proofs
open Sys2Proof Sys2Proof.Machine

/-- Settles O30: SET_CAMERA by the port's state and then the ranges of the descriptor that its bytes carry
(`descriptorOf_cons_bytes`), ENABLE_CAMERA by the port's state and its descriptor. -/
theorem setAndEnableCamera : Obligations.SetAndEnableCamera := by
  refine ⟨fun s t g b rest d hwidth hheight hperiod hnominal htol hus hlines hacquire hlose => ?setCamera,
    fun s t g b rest h => ?enableCamera⟩
  case setCamera =>
    intro p inRange h
    have hs := h.operational t
    have hd : d.Fits := ⟨hwidth, hheight, hperiod, hnominal, htol, hus, hlines, hacquire, hlose⟩
    rw [exec_setCamera]
    refine ⟨fun hle => ?outOfRange, fun c hb => ⟨fun hq => ?enabled, fun hq hbad => ?unsound, fun hq hok => ?sound⟩⟩
    case outOfRange => exact serve_of_refuse h.asks (reqSetCamera_of_le hs hle d)
    case enabled => exact serve_of_refuse h.asks (reqSetCamera_of_enabled hs hb hq d)
    case unsound =>
      exact serve_of_refuse h.asks <|
        (reqSetCamera_of_disabled hs hb hq hd).trans (if_neg fun hr => hbad (d.inRange_iff.mp hr))
    case sound =>
      exact serve_of_accept_setReceiver h.asks <|
        (reqSetCamera_of_disabled hs hb hq hd).trans (if_pos (d.inRange_iff.mpr hok))
  case enableCamera =>
    have hs := h.operational t
    rw [exec_enableCamera]
    exact ⟨fun hle => serve_of_refuse h.asks (reqEnableCamera_of_le hs hle), fun c hb =>
      ⟨fun hq => serve_of_accept h.asks (reqEnableCamera_of_enabled hs hb hq),
        fun hq hd => serve_of_refuse h.asks (reqEnableCamera_of_no_descriptor hs hb hq hd),
        fun d hq hd => serve_of_accept_setReceiver h.asks (reqEnableCamera_of_descriptor hs hb hq hd)⟩⟩

end Sys2Proof.Proofs
end

section
/-! The take of one ring at an output frame start (R102): the candidate of a lawful ring, the outcome in each row of the
table, and what the frame start makes of it (R119, R120). -/
namespace Sys2Proof.Machine

/-! ### The candidate -/

/-- Where at most one slot has a property, the search finds every slot that has it. -/
theorem Trio.find_of_countP_le_one {α : Type} {q : Trio α} {p : α → Bool} (hq : q.toList.countP p ≤ 1)
    {i : Fin 3} (hi : p (q.get i) = true) : q.find p = some i := by
  have unique : ∀ j, p (q.get j) = true → j = i := by
    intro j hj
    simp only [Trio.toList, List.countP_cons, List.countP_nil] at hq
    fin_cases i <;> fin_cases j <;> grind [Trio.get]
  cases h : q.find p with
  | none => exact absurd hi (by rw [Trio.find_none.mp h i]; decide)
  | some j => rw [unique j (Trio.find_some h).1]

theorem SlotRecord.canRepeat_iff (x : SlotRecord) : x.canRepeat = true ↔ ∃ o e n, x = .held o e n false false := by
  rcases x with _ | _ | _ | ⟨o, e, n, _ | _, _ | _⟩ <;> simp [SlotRecord.canRepeat]

theorem SlotRecord.isHeld_of_canRepeat {x : SlotRecord} (h : x.canRepeat = true) : x.isHeld = true := by
  obtain ⟨o, e, n, rfl⟩ := x.canRepeat_iff.mp h
  rfl

section
variable {r : Ring} (hr : Ring.lawful r) {i : Fin 3} {o e : Stamp} {n : Half}
include hr

theorem Ring.lawful.find_ready (hi : r.get i = .ready o e n) : r.find SlotRecord.isReady = some i :=
  Trio.find_of_countP_le_one hr.ready (by rw [hi]; rfl)

theorem Ring.lawful.find_repeatable (hi : r.get i = .held o e n false false) :
    r.find SlotRecord.canRepeat = some i :=
  Trio.find_of_countP_le_one
    ((List.countP_mono_left fun _ _ => SlotRecord.isHeld_of_canRepeat).trans hr.held) (by rw [hi]; rfl)

end

/-! ### The rows of the take's table -/

section
variable {r : Ring} {i : Fin 3} {o e : Stamp} {n : Half} (t : Stamp) (maxAge : Nat)

/-- The READY slot is the candidate: NEW or STALE by its age. -/
theorem ringTake_of_ready (hr : Ring.lawful r) (hi : r.get i = .ready o e n) :
    ringTake r true t maxAge =
      if (ageOf t e).toNat ≤ maxAge then ((ringStop r).set i (.held o e n false false), .taken false i n (ageOf t e))
      else (ringStop r, .stale (some (ageOf t e))) := by
  simp only [ringTake, if_true, hr.find_ready hi, hi]

variable (hnone : ∀ j, (r.get j).isReady = false)
include hnone

/-- Without a READY slot, the HELD slot that may be repeated is the candidate: REPEAT or STALE by its age. -/
theorem ringTake_of_repeatable (hr : Ring.lawful r) (hi : r.get i = .held o e n false false) :
    ringTake r true t maxAge =
      if (ageOf t e).toNat ≤ maxAge then (r, .taken true i n (ageOf t e))
      else (ringStop r, .stale (some (ageOf t e))) := by
  simp only [ringTake, if_true, Trio.find_none.mpr hnone, hr.find_repeatable hi, hi]

theorem ringTake_of_no_candidate (hi : ∀ i o e n, r.get i ≠ .held o e n false false) :
    ringTake r true t maxAge = (ringStop r, .stale none) := by
  have hfind : r.find SlotRecord.canRepeat = none := by
    refine Trio.find_none.mpr fun i => Bool.eq_false_iff.mpr fun h => ?_
    obtain ⟨o, e, n, hx⟩ := (SlotRecord.canRepeat_iff _).mp h
    exact hi i o e n hx
  simp [ringTake, Trio.find_none.mpr hnone, hfind]

end

/-! ### The start class -/

theorem composable_iff (r : Receiver) (w : Bool) :
    composable r w = true ↔ (r.qual = .locked ∨ r.qual = .holdover) ∧ w = false := by
  cases h : r.qual <;> simp [composable, Qual.qualified, h]

theorem startClass_ne_taken {r : Receiver} {w : Bool} (h : composable r w = false) (x : TakeOutcome) (k : Taken) :
    startClass r w x ≠ .taken k := by
  have hw : r.qual.qualified = true → w = true := by simpa [composable] using h
  cases hq : r.qual with
  | disabled | noSignal | acquiring => simp [startClass, hq]
  | locked | holdover => simp [startClass, hq, hw (by rw [hq]; rfl)]

section
variable {r : Receiver} {w : Bool} (h : composable r w = true)
include h

theorem startClass_stale (age : Option Stamp) : startClass r w (.stale age) = .stale age := by
  obtain ⟨hq | hq, rfl⟩ := (composable_iff r w).mp h <;> simp [startClass, hq]

theorem startClass_taken {d : Descriptor} (hd : r.descriptor = some d) (rep : Bool) (i : Fin 3) (n : Half)
    (age : Stamp) : startClass r w (.taken rep i n age) = .taken ⟨i, n, age, rep, d.width, d.height⟩ := by
  obtain ⟨hq | hq, rfl⟩ := (composable_iff r w).mp h <;> simp [startClass, hq, Receiver.width, Receiver.height, hd]

end

/-! ### The frame start -/

theorem exec_outputFrameStart_of_due {s : State} {t : Stamp} (hrun : s.pu.run = .running) (hdue : t = s.pu.compare)
    (hidle : s.ce.state = .idle) : exec (.outputFrameStart t) s = .next ((s.arrive t).startFrame t) := by
  show execOutputFrameStart t s = _
  exact if_pos ⟨hrun, hdue, hidle⟩

/-- The take of one ring at the frame start, by the withheld set that the frame start leaves. -/
def State.takeAtStart (s : State) (t : Stamp) (c : Camera) : Ring × TakeOutcome :=
  ringTake (s.fmc.rings.get c) (composable (s.cr.get c) ((s.startFrame t).fu.withheld.get c)) t s.pu.maxAge

theorem State.startFrame_ring (s : State) (t : Stamp) (c : Camera) :
    (s.startFrame t).fmc.rings.get c = (s.takeAtStart t c).1 := by
  rw [State.takeAtStart, State.startFrame_fu]
  simp [State.startFrame, takes]

theorem CE.frameStart_set (ce : CE) (nodes : List (Nat × NodeRecord)) (set : CompSet) :
    (ce.frameStart nodes set).set = some set := by
  obtain ⟨-, -, hset, -⟩ :=
    CE.beginLine_frame { ce with set := some set, cut := .all false, totals := .zero } nodes 0
  exact hset

theorem State.startFrame_cam {s : State} {t : Stamp} {set : CompSet} (hset : (s.startFrame t).ce.set = some set)
    (c : Camera) :
    set.cams.get c = startClass (s.cr.get c) ((s.startFrame t).fu.withheld.get c) (s.takeAtStart t c).2 := by
  rw [State.takeAtStart, State.startFrame_fu]
  obtain rfl := Option.some.inj ((CE.frameStart_set _ _ _).symm.trans hset)
  simp [compSetOf, takes]

section
variable {s : State} {t : Stamp} {set : CompSet} {c : Camera} (hset : (s.startFrame t).ce.set = some set)
include hset

theorem State.startFrame_of_not_composable
    (hno : composable (s.cr.get c) ((s.startFrame t).fu.withheld.get c) = false) :
    (∀ k, set.cams.get c ≠ .taken k) ∧ (s.startFrame t).fmc.rings.get c = ringStop (s.fmc.rings.get c) := by
  rw [State.startFrame_cam hset, State.startFrame_ring, State.takeAtStart, hno]
  exact ⟨startClass_ne_taken hno _, rfl⟩

variable (hyes : composable (s.cr.get c) ((s.startFrame t).fu.withheld.get c) = true) {r : Ring}
include hyes

/-- NEW or REPEAT: the camera enters the set with its source size. -/
theorem State.startFrame_of_taken {d : Descriptor} {rep : Bool} {i : Fin 3} {n : Half} {age : Stamp}
    (hd : (s.cr.get c).descriptor = some d)
    (h : ringTake (s.fmc.rings.get c) true t s.pu.maxAge = (r, .taken rep i n age)) :
    set.cams.get c = .taken ⟨i, n, age, rep, d.width, d.height⟩ ∧ (s.startFrame t).fmc.rings.get c = r := by
  rw [State.startFrame_cam hset, State.startFrame_ring, State.takeAtStart, hyes, h]
  exact ⟨startClass_taken hyes hd rep i n age, rfl⟩

theorem State.startFrame_of_stale {age : Option Stamp}
    (h : ringTake (s.fmc.rings.get c) true t s.pu.maxAge = (r, .stale age)) :
    set.cams.get c = .stale age ∧ (s.startFrame t).fmc.rings.get c = r := by
  rw [State.startFrame_cam hset, State.startFrame_ring, State.takeAtStart, hyes, h]
  exact ⟨startClass_stale hyes age, rfl⟩

/-- A candidate as old as the maximum age is still taken. -/
theorem State.startFrame_of_candidate {d : Descriptor} {rep : Bool} {i : Fin 3} {n : Half} {age : Stamp} {r' : Ring}
    (hd : (s.cr.get c).descriptor = some d)
    (h : ringTake (s.fmc.rings.get c) true t s.pu.maxAge =
      if age.toNat ≤ s.pu.maxAge then (r, .taken rep i n age) else (r', .stale (some age))) :
    (age.toNat ≤ s.pu.maxAge →
      set.cams.get c = .taken ⟨i, n, age, rep, d.width, d.height⟩ ∧ (s.startFrame t).fmc.rings.get c = r) ∧
    (s.pu.maxAge < age.toNat →
      set.cams.get c = .stale (some age) ∧ (s.startFrame t).fmc.rings.get c = r') :=
  ⟨fun hage => startFrame_of_taken hset hyes hd (h.trans (if_pos hage)),
    fun hage => startFrame_of_stale hset hyes (h.trans (if_neg (Nat.not_le.mpr hage)))⟩

end

end Sys2Proof.Machine

namespace Sys2Proof.Proofs
open Sys2Proof Sys2Proof.Machine

/-- Settles O59, row by row of R102's table: a lawful ring has at most one candidate (`ringTake_of_ready`,
`ringTake_of_repeatable`, `ringTake_of_no_candidate`), and the frame start makes ring and start class of the take's
answer (`startFrame_of_candidate`, `startFrame_of_stale`, `startFrame_of_not_composable`). -/
theorem frameTakes : Obligations.FrameTakes := by
  intro s s' t set c d hrun hdue hidle hexec hset hd hlaw ring comp freed
  obtain rfl : (s.arrive t).startFrame t = s' :=
    Host.Outcome.next.inj ((exec_outputFrameStart_of_due hrun hdue hidle).symm.trans hexec)
  have hcomp := composable_iff (s.cr.get c) (((s.arrive t).startFrame t).fu.withheld.get c)
  refine ⟨fun hno => ?notComposable, fun hyes => ?composable⟩
  case notComposable => exact State.startFrame_of_not_composable hset (Bool.eq_false_iff.mpr (hcomp.not.mpr hno))
  case composable =>
    have hb := hcomp.mpr hyes
    refine ⟨fun i o e n hi => ?ready, fun hnone => ⟨fun i o e n hi => ?repeatable, fun hi => ?noCandidate⟩⟩
    case ready => exact State.startFrame_of_candidate hset hb hd (ringTake_of_ready t s.pu.maxAge hlaw hi)
    case repeatable =>
      exact State.startFrame_of_candidate hset hb hd (ringTake_of_repeatable t s.pu.maxAge hnone hlaw hi)
    case noCandidate => exact State.startFrame_of_stale hset hb (ringTake_of_no_candidate t s.pu.maxAge hnone hi)

end Sys2Proof.Proofs
end

section
/-! START and STOP (R115, R117): what each comes to in each run state. -/
namespace Sys2Proof.Machine

theorem exec_start (t : Stamp) (g : Byte) (p : List Byte) (s : State) :
    exec (.start t g p) s = serve 0x03#8 t g p (reqStart t p) s := rfl

theorem exec_stop (t : Stamp) (g : Byte) (p : List Byte) (s : State) :
    exec (.stop t g p) s = serve 0x04#8 t g p (reqStop t p) s := rfl

/-- A request that is carried out and leaves what taking it in `s'` would leave is answered as in `s'`. -/
theorem serve_of_accept_taken {s s' : State} {kind tag : Byte} {p : List Byte} {rest : List Frame} {t : Stamp}
    {body : State → Served} (h : s.asks kind tag p rest)
    (hbody : body (s.taken t rest) = accept (s'.taken t rest)) :
    serve kind t tag p body s = .next (s'.answered t rest kind tag .ok []) := by
  rw [serve_taken h, hbody]
  rfl

/-! ### Guards -/

theorem RunState.not_operational {r : RunState} (h : r = .startup ∨ r = .memoryFault) :
    ¬ r.operational = true := by
  rcases h with rfl | rfl <;> exact Bool.false_ne_true

theorem whenReady_of_not_ready {s : State} (h : s.pu.run = .startup ∨ s.pu.run = .memoryFault) (k : Served) :
    whenReady s k = refuse s .notReady :=
  if_neg (RunState.not_operational h)

/-- An empty payload passes the guards of a request that carries none. -/
theorem guards_of_nil {s : State} (hs : s.pu.run.operational = true) (k : Served) :
    (whenReady s <| whenLength s [] 0 k) = k := by
  rw [whenReady_of_operational hs, whenLength_of_length s List.length_nil]

theorem State.frameInProgress_iff (s : State) : s.frameInProgress = true ↔ s.ce.state ≠ .idle :=
  bne_iff_ne

theorem State.stopOutput_eq_halted (s : State) (t : Stamp) : s.stopOutput t = s.halted t := rfl

section
variable {s : State} (hs : s.pu.run.operational = true) (t : Stamp)
include hs

/-! ### START -/

theorem reqStart_of_stopped (hrun : s.pu.run = .stopped) :
    reqStart t [] s =
      accept ((s.setPu { s.pu with run := .running, compare := t + 1000#32, frameNo := 0#32 }).setOp
        (s.op.begin t)) :=
  (guards_of_nil hs _).trans (by rw [hrun]; rfl)

theorem reqStart_of_running (hrun : s.pu.run = .running) : reqStart t [] s = accept s :=
  (guards_of_nil hs _).trans (by rw [hrun])

theorem reqStart_of_stopping (hrun : s.pu.run = .stopping) : reqStart t [] s = refuse s .wrongState :=
  (guards_of_nil hs _).trans (by rw [hrun])

/-! ### STOP -/

theorem reqStop_of_running (hrun : s.pu.run = .running) :
    reqStop t [] s =
      if s.frameInProgress then accept (s.setPu { s.pu with run := .stopping }) else accept (s.halted t) :=
  (guards_of_nil hs _).trans (by rw [hrun, s.stopOutput_eq_halted])

theorem reqStop_of_in_frame (hrun : s.pu.run = .running) (hframe : s.ce.state ≠ .idle) :
    reqStop t [] s = accept (s.setPu { s.pu with run := .stopping }) :=
  (reqStop_of_running hs t hrun).trans (if_pos (s.frameInProgress_iff.mpr hframe))

theorem reqStop_between_frames (hrun : s.pu.run = .running) (hidle : s.ce.state = .idle) :
    reqStop t [] s = accept (s.halted t) :=
  (reqStop_of_running hs t hrun).trans (if_neg fun hframe => s.frameInProgress_iff.mp hframe hidle)

theorem reqStop_of_not_running (hrun : s.pu.run = .stopped ∨ s.pu.run = .stopping) : reqStop t [] s = accept s := by
  refine (guards_of_nil hs _).trans ?_
  rcases hrun with hrun | hrun <;> rw [hrun]

end

/-! ### STARTUP and MEMORY_FAULT -/

section
variable {s : State} (t : Stamp) (hrun : s.pu.run = .startup ∨ s.pu.run = .memoryFault)
include hrun

theorem reqStart_of_not_ready : reqStart t [] s = refuse s .notReady := whenReady_of_not_ready hrun _

theorem reqStop_of_not_ready : reqStop t [] s = refuse s .notReady := whenReady_of_not_ready hrun _

end

end Sys2Proof.Machine

namespace Sys2Proof.Proofs
open Sys2Proof Sys2Proof.Machine

/-- Settles O27, by the run state: in an operational one the empty payload passes the guards (`guards_of_nil`) and the
request's own table decides; STOP in RUNNING turns on whether a frame is in progress; in STARTUP and MEMORY_FAULT the
first guard refuses (`reqStart_of_not_ready`, `reqStop_of_not_ready`). -/
theorem startAndStop : Obligations.StartAndStop := by
  intro s t g rest
  rw [exec_start, exec_stop]
  refine ⟨fun h => ?start, fun h => ?stop, fun hrun => ⟨fun h => ?startNotReady, fun h => ?stopNotReady⟩⟩
  case start =>
    have hs := h.operational t
    exact ⟨fun hrun => serve_of_accept_taken h.asks (reqStart_of_stopped hs t hrun),
      fun hrun => serve_of_accept h.asks (reqStart_of_running hs t hrun),
      fun hrun => serve_of_refuse h.asks (reqStart_of_stopping hs t hrun)⟩
  case stop =>
    have hs := h.operational t
    exact ⟨fun hrun hframe => serve_of_accept_taken h.asks (reqStop_of_in_frame hs t hrun hframe),
      fun hrun hidle => serve_of_accept_taken h.asks (reqStop_between_frames hs t hrun hidle),
      fun hrun => serve_of_accept h.asks (reqStop_of_not_running hs t hrun)⟩
  case startNotReady => exact serve_of_refuse h (reqStart_of_not_ready t hrun)
  case stopNotReady => exact serve_of_refuse h (reqStop_of_not_ready t hrun)

end Sys2Proof.Proofs
end

section
/-! The frame-end update of the harmonisation unit (R136 to R141, R144): when a camera is updated, what its update
record then holds, and the bounds on its move and on its new gain. -/
namespace Sys2Proof.Machine

/-! ### Sums and outcome (R137, R141) -/

theorem usable_iff {nmin : Nat} {q : SeamSums} : usable nmin q = true ↔ nmin ≤ q.n := decide_eq_true_iff

theorem ownSum_eq (nmin : Nat) (q : Quad SeamSums) (c : Camera) :
    ownSum nmin q c =
      (if nmin ≤ (q.get (c - 1)).n then (q.get (c - 1)).sb else 0) + if nmin ≤ (q.get c).n then (q.get c).sa else 0 := by
  simp only [ownSum, usable_iff]

theorem neighbourSum_eq (nmin : Nat) (q : Quad SeamSums) (c : Camera) :
    neighbourSum nmin q c =
      (if nmin ≤ (q.get (c - 1)).n then (q.get (c - 1)).sa else 0) + if nmin ≤ (q.get c).n then (q.get c).sb else 0 := by
  simp only [neighbourSum, usable_iff]

/-- A camera is updated in AUTO, with a usable seam, and with a positive own sum; in every other case it is held. -/
theorem updateOutcome_eq_updated_iff {h : HarmSettings} {q : Quad SeamSums} {c : Camera} :
    updateOutcome h q c = .updated ↔
      h.auto = true ∧ (h.nmin ≤ (q.get (c - 1)).n ∨ h.nmin ≤ (q.get c).n) ∧ 0 < ownSum h.nmin q c := by
  rw [← usable_iff, ← usable_iff]
  simp only [updateOutcome, Bool.not_eq_true', Bool.and_eq_true]
  split_ifs with hoff hseam hown
  · exact iff_of_false (by decide) fun ⟨hauto, _, _⟩ => Bool.false_ne_true (hoff.symm.trans hauto)
  · exact iff_of_false (by decide) fun ⟨_, hsome, _⟩ => by simp [hseam] at hsome
  · exact iff_of_false (by decide) fun ⟨_, _, hpos⟩ => hpos.ne' hown
  · refine iff_of_true rfl ⟨(Bool.not_eq_false _).mp hoff, ?_, Nat.pos_of_ne_zero hown⟩
    rwa [not_and_or, Bool.not_eq_false, Bool.not_eq_false] at hseam

/-! ### Limited move and new gain (R139) -/

theorem allowedStep_eq (h : HarmSettings) (relief : Bool) :
    allowedStep h relief = if relief = true ∧ h.relief = true then 4 * h.stepLimit else h.stepLimit := by
  simp only [allowedStep, Bool.and_eq_true]

theorem limitedMove_eq (g target step : Nat) :
    limitedMove g target step = max (-(step : Int)) (min ((target : Int) - g) step) :=
  clampInt_eq (by omega)

theorem natAbs_limitedMove_le (g target step : Nat) : (limitedMove g target step).natAbs ≤ step := by
  rw [limitedMove_eq]
  omega

theorem movedGain_eq {h : HarmSettings} (hrange : h.gmin ≤ h.gmax) (g : Nat) (move : Int) :
    (movedGain h g move : Int) = max (h.gmin : Int) (min (g + move) h.gmax) := by
  rw [movedGain, clampInt_eq (by omega)]
  omega

/-- Clamping a move into the range brings it nearer to a gain that lies in the range. -/
theorem natAbs_movedGain_sub_le {h : HarmSettings} {g : Nat} (hlow : h.gmin ≤ g) (hhigh : g ≤ h.gmax) (move : Int) :
    ((movedGain h g move : Int) - g).natAbs ≤ move.natAbs := by
  rw [movedGain_eq (hlow.trans hhigh)]
  omega

/-! ### One camera's update (R136, R144) -/

section
variable (h : HarmSettings) (tot : Totals) (gain : Nat) (relief : Bool) (c : Camera)

/-- What the record holds of a camera in every outcome. -/
theorem updateCamera_record :
    (updateCamera h tot gain relief c).coverage = tot.coverage.get c ∧
      (updateCamera h tot gain relief c).oldGain = gain ∧
      (updateCamera h tot gain relief c).outcome = updateOutcome h tot.seams c := by
  unfold updateCamera
  cases updateOutcome h tot.seams c <;> exact ⟨rfl, rfl, rfl⟩

variable {h tot c}

theorem updateCamera_newGain_of_held (hheld : updateOutcome h tot.seams c ≠ .updated) :
    (updateCamera h tot gain relief c).newGain = gain := by
  unfold updateCamera
  cases hout : updateOutcome h tot.seams c with
  | updated => exact absurd hout hheld
  | _ => rfl

theorem updateCamera_of_updated (hupd : updateOutcome h tot.seams c = .updated) :
    let ratio := targetRatio (ownSum h.nmin tot.seams c) (neighbourSum h.nmin tot.seams c)
    let move := limitedMove gain (targetGain gain ratio) (allowedStep h relief)
    (updateCamera h tot gain relief c).move = some (ratio, move) ∧
      (updateCamera h tot gain relief c).newGain = movedGain h gain move := by
  simp only [updateCamera, hupd, and_self]

end

/-! ### The unit's update (R136, R144) -/

/-- The update of camera `c` in the frame-end update of the unit. -/
def HU.camUpdate (h : HU) (tot : Totals) (c : Camera) : CamUpdate :=
  updateCamera h.settings tot (h.gains.get c) (h.relief.get c) c

theorem HU.update_gains_get (h : HU) (no : Count) (tot : Totals) (c : Camera) :
    (h.update no tot).gains.get c = (h.camUpdate tot c).newGain := by
  simp only [HU.update, Quad.get_map, Quad.get_ofFn, HU.camUpdate]

theorem HU.update_last (h : HU) (no : Count) (tot : Totals) :
    (h.update no tot).last =
      some ⟨no, h.settings.auto, tot.seams.map fun q => (q, usable h.settings.nmin q), .ofFn (h.camUpdate tot)⟩ := rfl

end Sys2Proof.Machine

namespace Sys2Proof.Proofs
open Sys2Proof Sys2Proof.Machine

/-- Settles O47, by the camera's outcome (`updateOutcome_eq_updated_iff`): a held camera keeps its gain; an updated one
moves by the limited move (`limitedMove_eq`), and the clamp into the range lets it move no further than that
(`natAbs_movedGain_sub_le`). -/
theorem gainUpdate : Obligations.GainUpdate := by
  intro h no tot c left right own beside gain step h'
  have hown : ownSum h.settings.nmin tot.seams c = own := ownSum_eq _ _ _
  have hbeside : neighbourSum h.settings.nmin tot.seams c = beside := neighbourSum_eq _ _ _
  have hstep : allowedStep h.settings (h.relief.get c) = step := allowedStep_eq _ _
  have hgain : h'.gains.get c = (h.camUpdate tot c).newGain := h.update_gains_get no tot c
  obtain ⟨hcoverage, hold, hout⟩ := updateCamera_record h.settings tot gain (h.relief.get c) c
  have hcam : (Quad.ofFn (h.camUpdate tot)).get c = h.camUpdate tot c := Quad.get_ofFn _ c
  refine ⟨⟨rfl, Quad.get_all _ c, _, h.update_last no tot, rfl, rfl, Quad.get_map _ _ c, ?coverage, ?oldGain,
    ?newGain⟩, fun hheld => ?held, fun hauto hseam hpos => ?updated⟩
  case coverage => exact (congrArg CamUpdate.coverage hcam).trans hcoverage
  case oldGain => exact (congrArg CamUpdate.oldGain hcam).trans hold
  case newGain => exact (congrArg CamUpdate.newGain hcam).trans hgain.symm
  case held =>
    refine hgain.trans (updateCamera_newGain_of_held gain _ fun hupd => ?_)
    obtain ⟨hauto, hseam, hpos⟩ := updateOutcome_eq_updated_iff.mp hupd
    rcases hheld with hoff | ⟨hleft, hright⟩ | hzero
    · exact Bool.false_ne_true (hoff.symm.trans hauto)
    · exact hseam.elim hleft.not_ge hright.not_ge
    · exact hpos.ne' (hown.trans hzero)
  case updated =>
    have hupd : updateOutcome h.settings tot.seams c = .updated :=
      updateOutcome_eq_updated_iff.mpr ⟨hauto, hseam, hown ▸ hpos⟩
    obtain ⟨hmove, hnew⟩ := updateCamera_of_updated gain (h.relief.get c) hupd
    rw [hown, hbeside, hstep] at hmove hnew
    obtain ⟨hratio, hcap⟩ := targetRatio_spec own beside hpos
    refine ⟨targetRatio own beside, _, _, hratio, hcap, rfl, limitedMove_eq .., fun hrange => ?_,
      fun hlow hhigh => ?_, _, h.update_last no tot, ?_, ?_⟩
    · rw [hgain, HU.camUpdate, hnew]
      exact movedGain_eq hrange gain _
    · rw [hgain, HU.camUpdate, hnew]
      exact (natAbs_movedGain_sub_le hlow hhigh _).trans (natAbs_limitedMove_le ..)
    · exact (congrArg CamUpdate.outcome hcam).trans (hout.trans hupd)
    · exact (congrArg CamUpdate.move hcam).trans hmove

end Sys2Proof.Proofs
end

section
/-! The recording of one fault (R151, R152): what it leaves of the notice unit and of the first-fault record. -/
namespace Sys2Proof.Machine

theorem capture_none (r : FaultReport) : capture none r = some ⟨r, false⟩ := rfl

/-- The first fault stays in an occupied record; only the more-faults flag is set (R152). -/
theorem capture_some (x : FirstFault) (r : FaultReport) : capture (some x) r = some ⟨x.fault, true⟩ := rfl

/-- Handing a fault leaves every unit but the fault unit and the notice unit as it is. -/
theorem State.handFault_frame (s : State) (r : FaultReport) :
    s.handFault r = { s with fu := (s.handFault r).fu, nq := (s.handFault r).nq } := by
  rw [State.handFault_eq]
  rfl

theorem State.handFault_nq (s : State) (r : FaultReport) :
    (s.handFault r).nq =
      if (s.fu.policy.get r.kind).masked then s.nq else s.nq.raise .fault r.source.notice r.kind.code r.stamp := by
  rw [State.handFault_eq]
  rfl

section
variable {s : State} {r : FaultReport}

/-- A masked fault fills no record and raises no notice (R151). -/
theorem State.handFault_of_masked (hm : (s.fu.policy.get r.kind).masked = true) :
    (s.handFault r).fu.first = s.fu.first ∧ (s.handFault r).nq = s.nq := by
  rw [State.handFault_fu, FU.record_first, State.handFault_nq, if_pos hm, if_pos hm]
  exact ⟨rfl, rfl⟩

/-- An unmasked fault is captured, and raised as a FAULT notice (R151). -/
theorem State.handFault_of_unmasked (hm : (s.fu.policy.get r.kind).masked = false) :
    (s.handFault r).fu.first = capture s.fu.first r ∧
      (s.handFault r).nq = s.nq.raise .fault r.source.notice r.kind.code r.stamp := by
  have hm' := Bool.eq_false_iff.mp hm
  rw [State.handFault_fu, FU.record_first, State.handFault_nq, if_neg hm', if_neg hm']
  exact ⟨rfl, rfl⟩

end

theorem State.handFault_marks (s : State) (r : FaultReport) (src : FaultSource) (k : FaultKind) :
    ((s.handFault r).fu.marks src).get k =
      if src = r.source ∧ k = r.kind then true else (s.fu.marks src).get k := by
  rw [State.handFault_fu, FU.record_marks]
  split
  case isTrue h => rw [decide_eq_true h, Bool.true_or]
  case isFalse h => rw [decide_eq_false h, Bool.false_or]

end Sys2Proof.Machine

namespace Sys2Proof.Proofs
open Sys2Proof Sys2Proof.Machine

/-- Settles O49, by whether the fault's kind is masked (`handFault_of_masked`, `handFault_of_unmasked`): marks and frame
are the same in both cases. -/
theorem faultRecording : Obligations.FaultRecording := by
  intro s r s' masked
  have hfu : s'.fu = s.fu.record r := s.handFault_fu r
  obtain ⟨hpolicy, hwithheld, hframe⟩ := s.fu.record_frame r
  refine ⟨s.handFault_frame r, hfu ▸ hpolicy, hfu ▸ hwithheld, hfu ▸ hframe, s.handFault_marks r,
    State.handFault_of_masked, fun hm => ?unmasked⟩
  case unmasked =>
    obtain ⟨hfirst, hnq⟩ := State.handFault_of_unmasked (s := s) (r := r) hm
    refine ⟨fun hnone => ?filled, fun x hx => ?flagged, hnq.trans ?notice⟩
    case filled => rw [hfirst, hnone, capture_none]
    case flagged => rw [hfirst, hx, capture_some]
    case notice => cases r.source <;> rfl

end Sys2Proof.Proofs
end


section
/-! Raising a notice (R160, R161): what each branch of a raise comes to, where a new record is placed, and which record
a full queue gives up for it. -/
namespace Sys2Proof.Machine

/-! ### Keys and coalescing (R158, R160) -/

theorem Notice.hasKey_iff {r : Notice} {k : NoticeKind} {src : NoticeSource} {d : Nat} :
    r.hasKey k src d = true ↔ r.kind = k ∧ r.source = src ∧ r.detail = d := by
  simp [Notice.hasKey, and_assoc]

/-- The first record that bears the key is the one that counts the repeat. -/
theorem coalesce_append_cons {k : NoticeKind} {src : NoticeSource} {d : Nat} {r : Notice} {before : List Notice}
    (hr : r.hasKey k src d = true) (hbefore : ∀ x ∈ before, ¬ x.hasKey k src d = true) (t : Stamp)
    (after : List Notice) :
    coalesce k src d t (before ++ r :: after) = before ++ r.again t :: after := by
  induction before with
  | nil => exact if_pos hr
  | cons x xs ih =>
    obtain ⟨hx, hxs⟩ := List.forall_mem_cons.mp hbefore
    calc coalesce k src d t (x :: (xs ++ r :: after))
      _ = x :: coalesce k src d t (xs ++ r :: after) := if_neg hx
      _ = x :: (xs ++ r.again t :: after) := congrArg _ (ih hxs)

/-! ### Placement (R161) -/

/-- `l'` is `l` with `n` placed behind the last record whose priority is at least its own, or at the head. -/
def NoticePlaced (n : Notice) (l l' : List Notice) : Prop :=
  ∃ before after, l = before ++ after ∧ l' = before ++ n :: after ∧
    (∀ r ∈ after, r.priority < n.priority) ∧ ∀ r, before.getLast? = some r → n.priority ≤ r.priority

theorem noticePlaced_placeNotice (n : Notice) (l : List Notice) : NoticePlaced n l (placeNotice l n) := by
  induction l with
  | nil => exact ⟨[], [], rfl, rfl, by simp, by simp⟩
  | cons r rest ih =>
    rw [placeNotice]
    split
    case isTrue hany =>
      obtain ⟨before, after, rfl, hplace, hafter, hlast⟩ := ih
      refine ⟨r :: before, after, rfl, congrArg _ hplace, hafter, ?_⟩
      cases before with
      | nil =>
        -- All behind `r` are lower, so the record that reaches `n`'s priority is `r`.
        have hr : n.priority ≤ r.priority := by
          obtain ⟨x, hx, hle⟩ := List.any_eq_true.mp hany
          rcases List.mem_cons.mp hx with rfl | hx
          · exact of_decide_eq_true hle
          · exact absurd (hafter x hx) (not_lt.mpr (of_decide_eq_true hle))
        simpa using hr
      | cons y ys => simpa using hlast
    case isFalse hany => exact ⟨[], r :: rest, rfl, rfl, by simpa using hany, by simp⟩

/-! ### Displacement (R161) -/

theorem lowestPriority_cons (r : Notice) (rest : List Notice) :
    lowestPriority (r :: rest) = min r.priority (lowestPriority rest) := by
  rw [lowestPriority, min_def_lt]

theorem le_lowestPriority_iff {p : Fin 4} {l : List Notice} :
    p ≤ lowestPriority l ↔ ∀ r ∈ l, p ≤ r.priority := by
  induction l with
  | nil => exact ⟨fun _ _ hr => absurd hr List.not_mem_nil, fun _ => Fin.le_last p⟩
  | cons r rest ih => rw [lowestPriority_cons, le_min_iff, ih, List.forall_mem_cons]

theorem lowestPriority_eq_of_mem {r : Notice} {l : List Notice} (hr : r ∈ l)
    (hle : ∀ x ∈ l, r.priority ≤ x.priority) : lowestPriority l = r.priority :=
  le_antisymm (le_lowestPriority_iff.mp le_rfl r hr) (le_lowestPriority_iff.mpr hle)

/-- What leaves is the record of its priority behind which there is no other of that priority. -/
theorem removeLastOf_append_cons {r : Notice} {after : List Notice}
    (hafter : ∀ x ∈ after, x.priority ≠ r.priority) (before : List Notice) :
    removeLastOf r.priority (before ++ r :: after) = before ++ after := by
  induction before with
  | nil =>
    have hnone : ¬ (after.any fun x => x.priority == r.priority) = true := by simpa using hafter
    rw [List.nil_append, removeLastOf, if_neg hnone, if_pos (beq_self_eq_true _), List.nil_append]
  | cons x xs ih =>
    have hsome : ((xs ++ r :: after).any fun y => y.priority == r.priority) = true := by simp
    rw [List.cons_append, removeLastOf, if_pos hsome, ih, List.cons_append]

/-! ### Insertion (R161, R163) -/

section
variable {q : NQ} {n : Notice}

theorem NQ.insert_of_room (hroom : q.queue.length < 32) :
    ∃ l, NoticePlaced n q.queue l ∧ q.insert n = { q with queue := l, attention := attentionDue l q.threshold } :=
  ⟨_, noticePlaced_placeNotice n q.queue, if_pos hroom⟩

theorem NQ.insert_of_full_of_le (hfull : 32 ≤ q.queue.length) (hle : ∀ r ∈ q.queue, n.priority ≤ r.priority) :
    q.insert n = { q with lost := true } :=
  (if_neg (not_lt.mpr hfull)).trans (if_neg (not_lt.mpr (le_lowestPriority_iff.mpr hle)))

theorem NQ.insert_of_full_of_lt {r : Notice} {before after : List Notice} (hfull : 32 ≤ q.queue.length)
    (hq : q.queue = before ++ r :: after) (hlt : r.priority < n.priority)
    (hbefore : ∀ x ∈ before, r.priority ≤ x.priority) (hafter : ∀ x ∈ after, r.priority < x.priority) :
    ∃ l, NoticePlaced n (before ++ after) l ∧
      q.insert n = { q with queue := l, lost := true, attention := attentionDue l q.threshold } := by
  have hlowest : lowestPriority q.queue = r.priority := by
    refine lowestPriority_eq_of_mem (by simp [hq]) fun x hx => ?_
    rw [hq, List.mem_append, List.mem_cons] at hx
    rcases hx with hx | rfl | hx
    · exact hbefore x hx
    · exact le_rfl
    · exact (hafter x hx).le
  have hremove : removeLastOf (lowestPriority q.queue) q.queue = before ++ after := by
    rw [hlowest, hq]
    exact removeLastOf_append_cons (fun x hx => (hafter x hx).ne') before
  refine ⟨_, noticePlaced_placeNotice n (before ++ after), ?_⟩
  calc q.insert n
    _ = { q with queue := placeNotice (removeLastOf (lowestPriority q.queue) q.queue) n, lost := true }.evaluate :=
      (if_neg (not_lt.mpr hfull)).trans (if_pos (hlowest ▸ hlt))
    _ = _ := by rw [hremove]; rfl

end

/-! ### The branches of a raise (R160) -/

section
variable {q : NQ} {k : NoticeKind} {src : NoticeSource} {d : Nat} (t : Stamp)

theorem NQ.raise_of_masked (hm : (q.policy.get k).masked = true) : q.raise k src d t = q := if_pos hm

theorem NQ.raise_of_queued (hm : (q.policy.get k).masked = false) {r : Notice} (hr : r ∈ q.queue)
    (hkey : r.hasKey k src d = true) : q.raise k src d t = { q with queue := coalesce k src d t q.queue } :=
  (if_neg (Bool.eq_false_iff.mp hm)).trans (if_pos (List.any_eq_true.mpr ⟨r, hr, hkey⟩))

theorem NQ.raise_of_new (hm : (q.policy.get k).masked = false) (hnew : ∀ x ∈ q.queue, ¬ x.hasKey k src d = true) :
    q.raise k src d t = q.insert ⟨k, src, d, t, t, 1, (q.policy.get k).priority⟩ :=
  (if_neg (Bool.eq_false_iff.mp hm)).trans (if_neg (by simpa using hnew))

end

end Sys2Proof.Machine

namespace Sys2Proof.Proofs
open Sys2Proof Sys2Proof.Machine

/-- Settles O51, by the branches of a raise (`NQ.raise_of_masked`, `NQ.raise_of_queued`, `NQ.raise_of_new`), and for a
new record by those of an insertion: room, a full queue with none lower, and a full queue with a lower one. -/
theorem noticeRaising : Obligations.NoticeRaising := by
  intro q k src d t new due placed
  refine ⟨NQ.raise_of_masked t, fun before r after hm hq hkey hbefore => ?coalesced, fun hm hfresh => ?inserted⟩
  case coalesced =>
    have hr : r.hasKey k src d = true := Notice.hasKey_iff.mpr hkey
    have hfirst : ∀ x ∈ before, ¬ x.hasKey k src d = true := fun x hx => mt Notice.hasKey_iff.mp (hbefore x hx)
    rw [NQ.raise_of_queued t hm (by simp [hq]) hr, hq, coalesce_append_cons hr hfirst]
    rfl
  case inserted =>
    rw [NQ.raise_of_new t hm fun x hx => mt Notice.hasKey_iff.mp (hfresh x hx)]
    exact ⟨NQ.insert_of_room, fun hle hfull => NQ.insert_of_full_of_le hfull hle,
      fun before r after hfull hq hlt => NQ.insert_of_full_of_lt hfull hq hlt⟩

end Sys2Proof.Proofs
end

section
/-! IDENTIFY (R175): a request that only reports, and the identity that it reports. -/
namespace Sys2Proof.Machine

theorem exec_identify (t : Stamp) (g : Byte) (p : List Byte) (s : State) :
    exec (.identify t g p) s = serve 0x01#8 t g p (reqIdentify p) s := rfl

/-- A request that replies in the state in which it runs leaves its answer and nothing else, whatever the data. -/
theorem serve_of_reply {s : State} {kind tag : Byte} {p : List Byte} {rest : List Frame} {t : Stamp}
    {body : State → Served} {st : Status} {data : List Byte} (h : s.asks kind tag p rest)
    (hbody : body (s.taken t rest) = .reply (s.taken t rest) st data) :
    serve kind t tag p body s = .next (s.answered t rest kind tag st data) := by
  rw [serve_taken h, hbody]
  rfl

theorem reqIdentify_nil (s : State) : reqIdentify [] s = .reply s .ok identityBytes :=
  whenLength_of_length s List.length_nil _

/-- R175's table byte by byte, each field little-endian (R179). -/
theorem identityBytes_eq :
    identityBytes =
      [0xC7#8, 0x01#8, 0x20#8, 0x04#8, 0x01#8, 0x04#8, 0x03#8, 0x40#8, 0x01#8, 0x80#8, 0x07#8, 0xF0#8, 0x00#8, 0x00#8,
        0x05#8, 0x00#8, 0x02#8, 0x04#8] := by
  decide

end Sys2Proof.Machine

namespace Sys2Proof.Proofs
open Sys2Proof Sys2Proof.Machine

/-- Settles O22: no guard on the run state stands before the reply (`reqIdentify_nil`), and a reply in the state in which
the request runs changes nothing else (`serve_of_reply`). -/
theorem identify : Obligations.Identify := by
  intro s t g rest h
  rw [exec_identify, ← identityBytes_eq]
  exact serve_of_reply h (reqIdentify_nil (s.taken t rest))

end Sys2Proof.Proofs
end

section
set_option deprecated.oldSectionVars true -- proofs in sequence: their tasks would not fit the thread limit
/-! The link: the framer byte by byte, whole request frames, the gap, and the replies on TXD (Chapter 10). -/
namespace Sys2Proof.Machine

/-! ### The framer, byte by byte -/

theorem exec_byteArrival (t : Stamp) (b : Byte) (s : State) :
    exec (.byteArrival t b true) s = .next { s with timebase := t, lc := s.lc.takeByte b t } := rfl

/-- The framer that collects the bytes of a payload: it waits for the next of them, or, with all there, for the CRC. -/
def Framer.collecting (len : Nat) (kind tag : Byte) (got : List Byte) : Framer :=
  if got.length < len then .payload len kind tag got else .trailer len kind tag got []

section
variable {lc : LC} {b : Byte} {t : Stamp}

theorem LC.takeByte_of_hunt (h : lc.framer = .hunt) :
    lc.takeByte b t = if b = 0xC3#8 then { lc with framer := .header [], lastByte := t } else lc := by
  simp only [LC.takeByte, h]

theorem LC.takeByte_of_header {got : List Byte} (h : lc.framer = .header got) :
    lc.takeByte b t = { lc with framer := afterHeader (got ++ [b]), lastByte := t } := by
  simp only [LC.takeByte, h]

theorem LC.takeByte_of_payload {len : Nat} {kind tag : Byte} {got : List Byte} (h : lc.framer = .payload len kind tag got) :
    lc.takeByte b t = { lc with framer := .collecting len kind tag (got ++ [b]), lastByte := t } := by
  simp only [LC.takeByte, h, Framer.collecting]
  split <;> rfl

theorem LC.takeByte_of_trailer {len : Nat} {kind tag : Byte} {body : List Byte}
    (h : lc.framer = .trailer len kind tag body []) :
    lc.takeByte b t = { lc with framer := .trailer len kind tag body [b], lastByte := t } := by
  simp [LC.takeByte, h]

theorem LC.takeByte_of_last {len : Nat} {kind tag : Byte} {body : List Byte} {c : Byte}
    (h : lc.framer = .trailer len kind tag body [c]) :
    lc.takeByte b t = LC.complete { lc with framer := .hunt, lastByte := t } len kind tag body [c, b] := by
  simp [LC.takeByte, h]

theorem LC.takeByte_of_drain {got : List Byte} (h : lc.framer = .drain got) :
    lc.takeByte b t = { lc with framer := .drain (if got.length < 2 then got ++ [b] else got), lastByte := t } := by
  simp only [LC.takeByte, h]

end

section
variable {lc : LC} {len : Nat} {kind tag : Byte} {body c : List Byte}

theorem LC.complete_of_room (h : leNat c = (crc (framed len kind tag body)).toNat) (hroom : lc.inbox.length < 4) :
    lc.complete len kind tag body c = { lc with inbox := lc.inbox ++ [⟨kind, tag, body⟩] } :=
  (if_pos h).trans (if_pos hroom)

theorem LC.complete_of_full (h : leNat c = (crc (framed len kind tag body)).toNat) (hfull : 4 ≤ lc.inbox.length) :
    lc.complete len kind tag body c = { lc with outbox := lc.framerOutbox kind tag .busy } :=
  ((if_pos h).trans (if_neg (Nat.not_lt.mpr hfull))).trans (LC.placeFramer_eq ..)

theorem LC.complete_of_ne (h : leNat c ≠ (crc (framed len kind tag body)).toNat) :
    lc.complete len kind tag body c = { lc with outbox := lc.framerOutbox kind tag .badFrame } :=
  (if_neg h).trans (LC.placeFramer_eq ..)

end

theorem leNat_pair (a b : Byte) : leNat [a, b] = a.toNat + 256 * b.toNat := by simp [leNat]

/-- A byte's bits, least significant first, spell it. -/
theorem levelsByte_bits (b : Byte) :
    levelsByte (b.getLsbD 0) (b.getLsbD 1) (b.getLsbD 2) (b.getLsbD 3) (b.getLsbD 4) (b.getLsbD 5) (b.getLsbD 6)
      (b.getLsbD 7) = b := by
  have hb := b.isLt
  apply BitVec.eq_of_toNat_eq
  simp only [levelsByte, BitVec.toNat_ofNat, BitVec.getLsbD, Nat.toNat_testBit]
  omega

theorem characterCommand_of_bits {bits : List Bool} {b : Byte} (hb : ∀ i < 8, bits[i]? = some (b.getLsbD i))
    (hl : bits.length = 8) (t : Stamp) (stop : Bool) :
    characterCommand t (false :: bits ++ [stop]) = some (.byteArrival t b stop) := by
  have hbits : bits = (List.range 8).map b.getLsbD := by
    refine List.ext_getElem? fun i => ?_
    by_cases hi : i < 8
    · rw [hb i hi, List.getElem?_map, List.getElem?_range hi, Option.map_some]
    · rw [List.getElem?_eq_none (by omega), List.getElem?_eq_none (by simpa using hi)]
  rw [hbits]
  exact congrArg (fun x => some (Instr.byteArrival t x stop)) (levelsByte_bits b)

/-- Only ten levels that begin with a low start bit are a character. -/
theorem characterCommand_eq_none {levels : List Bool} (h : levels.length ≠ 10 ∨ levels.head? ≠ some false) (t : Stamp) :
    characterCommand t levels = none := by
  unfold characterCommand
  split
  · rcases h with h | h <;> exact absurd rfl h
  · rfl

/-! ### A whole request frame -/

/-- The bytes that arrive one after another. -/
def LC.takeBytes (lc : LC) (xs : List (Stamp × Byte)) : LC := xs.foldl (fun lc x => lc.takeByte x.2 x.1) lc

/-- Bytes that arrive one after another change the timebase and the link controller. -/
theorem execAll_arrivals (xs : List (Stamp × Byte)) (t : Stamp) (b : Byte) (s : State) :
    execAll ((xs ++ [(t, b)]).map fun x => Instr.byteArrival x.1 x.2 true) s = .next
      { s with timebase := t, lc := (s.lc.takeBytes xs).takeByte b t } := by
  induction xs generalizing s with
  | nil => rfl
  | cons x xs ih => exact ih { s with timebase := x.1, lc := s.lc.takeByte x.2 x.1 }

theorem afterHeader_two (l0 l1 : Byte) :
    afterHeader [l0, l1] = if 512 < leNat [l0, l1] then .drain [] else .header [l0, l1] := rfl

theorem afterHeader_four (l0 l1 kind tag : Byte) :
    afterHeader [l0, l1, kind, tag] = .collecting (leNat [l0, l1]) kind tag [] := by
  change (if leNat [l0, l1] = 0 then Framer.trailer 0 kind tag [] [] else .payload (leNat [l0, l1]) kind tag []) =
    if 0 < leNat [l0, l1] then Framer.payload (leNat [l0, l1]) kind tag [] else .trailer (leNat [l0, l1]) kind tag [] []
  by_cases h : leNat [l0, l1] = 0
  · rw [if_pos h, if_neg (by rw [h]; exact Nat.lt_irrefl 0), h]
  · rw [if_neg h, if_pos (Nat.pos_of_ne_zero h)]

/-- The bytes of a payload are collected, whatever they are. -/
theorem LC.takeBytes_payload {len : Nat} {kind tag : Byte} (xs : List (Stamp × Byte)) (got : List Byte) (t : Stamp) (lc : LC)
    (h : got.length + xs.length = len) :
    ∃ t', LC.takeBytes { lc with framer := .collecting len kind tag got, lastByte := t } xs =
      { lc with framer := .trailer len kind tag (got ++ xs.map Prod.snd) [], lastByte := t' } := by
  induction xs generalizing got t with
  | nil =>
    rw [List.length_nil, Nat.add_zero] at h
    exact ⟨t, by simp [LC.takeBytes, Framer.collecting, h]⟩
  | cons x xs ih =>
    rw [List.length_cons] at h
    have hgot : got.length < len := by omega
    obtain ⟨t', ht⟩ := ih (got ++ [x.2]) x.1 (by rw [List.length_append, List.length_singleton]; omega)
    refine ⟨t', ?_⟩
    change LC.takeBytes (LC.takeByte { lc with framer := .collecting len kind tag got, lastByte := t } x.2 x.1) xs = _
    rw [LC.takeByte_of_payload (if_pos hgot)]
    simpa using ht

/-- One byte behind the header bytes `got`. -/
theorem LC.takeByte_header (lc : LC) (got : List Byte) (b : Byte) {t t' : Stamp} {f : Framer} (hf : f = .header got) :
    LC.takeByte { lc with framer := f, lastByte := t } b t' =
      { lc with framer := afterHeader (got ++ [b]), lastByte := t' } := by
  rw [hf]
  rfl

/-- The five bytes of a header of at most 512 payload bytes bring a hunting framer to the payload. -/
theorem LC.takeBytes_header {lc : LC} {l0 l1 kind tag : Byte} {t0 t1 t2 t3 t4 : Stamp} (hlen : leNat [l0, l1] ≤ 512)
    (hhunt : lc.framer = .hunt) :
    lc.takeBytes [(t0, 0xC3#8), (t1, l0), (t2, l1), (t3, kind), (t4, tag)] =
      { lc with framer := .collecting (leNat [l0, l1]) kind tag [], lastByte := t4 } := by
  have htwo : afterHeader [l0, l1] = .header [l0, l1] := (afterHeader_two l0 l1).trans (if_neg (Nat.not_lt.mpr hlen))
  change LC.takeByte (LC.takeByte (LC.takeByte (LC.takeByte (lc.takeByte 0xC3#8 t0) l0 t1) l1 t2) kind t3) tag t4 = _
  rw [LC.takeByte_of_hunt hhunt, if_pos rfl, LC.takeByte_header lc [] l0 rfl,
    LC.takeByte_header lc [l0] l1 (f := afterHeader ([] ++ [l0])) rfl,
    LC.takeByte_header lc [l0, l1] kind (f := afterHeader ([l0] ++ [l1])) htwo,
    LC.takeByte_header lc [l0, l1, kind] tag (f := afterHeader ([l0, l1] ++ [kind])) rfl]
  exact congrArg (fun x => ({ lc with framer := x, lastByte := t4 } : LC)) (afterHeader_four l0 l1 kind tag)

/-- A header and its payload bring a hunting framer to the CRC. -/
theorem LC.takeBytes_framed {lc : LC} {f : Frame} {xs : List (Stamp × Byte)} (hlen : f.payload.length ≤ 512)
    (hhunt : lc.framer = .hunt)
    (hxs : xs.map Prod.snd = 0xC3#8 :: framed f.payload.length f.kind f.tag f.payload) :
    ∃ t, lc.takeBytes xs = { lc with framer := .trailer f.payload.length f.kind f.tag f.payload [], lastByte := t } := by
  have hread : leNat (leBytes 2 f.payload.length) = f.payload.length := leNat_leBytes (by omega)
  simp only [framed, leBytes, List.cons_append, List.nil_append, List.map_eq_cons_iff] at hxs
  obtain ⟨⟨t0, b0⟩, r0, rfl, rfl, ⟨t1, b1⟩, r1, rfl, rfl, ⟨t2, b2⟩, r2, rfl, rfl, ⟨t3, b3⟩, r3, rfl, rfl, ⟨t4, b4⟩, r4, rfl,
    rfl, hr⟩ := hxs
  have hsplit : lc.takeBytes ((t0, 0xC3#8) :: (t1, BitVec.ofNat 8 f.payload.length) ::
      (t2, BitVec.ofNat 8 (f.payload.length / 256)) :: (t3, f.kind) :: (t4, f.tag) :: r4) =
      LC.takeBytes (lc.takeBytes [(t0, 0xC3#8), (t1, BitVec.ofNat 8 f.payload.length),
        (t2, BitVec.ofNat 8 (f.payload.length / 256)), (t3, f.kind), (t4, f.tag)]) r4 := rfl
  have hlength : ([] : List Byte).length + r4.length = f.payload.length := by
    rw [← hr, List.length_map, List.length_nil, Nat.zero_add]
  obtain ⟨t, ht⟩ := LC.takeBytes_payload (kind := f.kind) (tag := f.tag) r4 [] t4 lc hlength
  refine ⟨t, ?_⟩
  change LC.takeBytes lc _ = _ at hsplit
  rw [hsplit, LC.takeBytes_header (hread.trans_le hlen) hhunt]
  change LC.takeBytes { lc with framer := .collecting (leNat (leBytes 2 f.payload.length)) f.kind f.tag [], lastByte := t4 } r4 = _
  rw [hread, ht, hr]
  rfl

/-- A whole frame in a framer that hunts, with a place in the inbox, joins it. -/
theorem LC.takeBytes_request {lc : LC} {f : Frame} {xs : List (Stamp × Byte)} {t : Stamp} {b : Byte}
    (hlen : f.payload.length ≤ 512) (hhunt : lc.framer = .hunt) (hroom : lc.inbox.length < 4)
    (hxs : (xs ++ [(t, b)]).map Prod.snd = requestBytes f) :
    (lc.takeBytes xs).takeByte b t = { lc with lastByte := t, inbox := lc.inbox ++ [f] } := by
  have hcrc (v : Half) : ∃ c0 c1, leBytes 2 v.toNat = [c0, c1] ∧ leNat [c0, c1] = v.toNat :=
    by
    have hv := v.isLt
    exact ⟨_, _, rfl, leNat_leBytes (n := 2) (by omega)⟩
  obtain ⟨c0, c1, hbytes, hread⟩ := hcrc (crc (framed f.payload.length f.kind f.tag f.payload))
  have hall : xs.map Prod.snd ++ [b] = (0xC3#8 :: framed f.payload.length f.kind f.tag f.payload) ++ [c0] ++ [c1] := by
    rw [List.map_append] at hxs
    refine hxs.trans ?_
    unfold requestBytes
    dsimp only
    rw [hbytes]
    simp
  obtain ⟨hpart, hb⟩ := List.append_inj' hall rfl
  obtain rfl : b = c1 := List.singleton_inj.mp hb
  obtain ⟨ys, zs, rfl, hys, hzs⟩ := List.map_eq_append_iff.mp hpart
  obtain ⟨⟨t0, z⟩, none, rfl, rfl, hnone⟩ := List.map_eq_cons_iff.mp hzs
  obtain rfl : none = [] := List.map_eq_nil_iff.mp hnone
  obtain ⟨t1, ht⟩ := LC.takeBytes_framed hlen hhunt hys
  have hlast : lc.takeBytes (ys ++ [(t0, z)]) = (lc.takeBytes ys).takeByte z t0 := List.foldl_append ..
  rw [hlast, ht, LC.takeByte_of_trailer (b := z) (t := t0) rfl, LC.takeByte_of_last rfl]
  refine (LC.complete_of_room (lc := { lc with framer := .hunt, lastByte := t }) hread hroom).trans ?_
  exact congrArg (fun x => ({ lc with framer := x, lastByte := t, inbox := lc.inbox ++ [f] } : LC)) hhunt.symm

/-! ### The gap -/

theorem execGapExpiry_of_due {s : State} (h : s.lc.framer ≠ .hunt) {t : Stamp} (ht : t = s.lc.lastByte + 100#32) :
    exec (.gapExpiry t) s = .next { s with timebase := t, lc := s.lc.expireGap } := by
  have hdue : (s.lc.framer.timed && t == s.lc.lastByte + Config.gapTime) = true := by
    rw [Bool.and_eq_true, beq_iff_eq]
    refine ⟨?_, ht⟩
    cases hf : s.lc.framer with
    | hunt => exact absurd hf h
    | header | payload | trailer | drain => rfl
  exact if_pos hdue

theorem LC.expireGap_of_drain {lc : LC} {got : List Byte} (h : lc.framer = .drain got) :
    lc.expireGap =
      { lc with framer := .hunt, outbox := lc.framerOutbox (got.getD 0 0#8) (got.getD 1 0#8) .badLength } := by
  simp only [LC.expireGap, h]
  exact LC.placeFramer_eq ..

/-- A partial frame is dropped without a reply. -/
theorem LC.expireGap_of_partial {lc : LC} (hhunt : lc.framer ≠ .hunt) (hdrain : ∀ got, lc.framer ≠ .drain got) :
    lc.expireGap = { lc with framer := .hunt } := by
  cases h : lc.framer with
  | hunt => exact absurd h hhunt
  | drain got => exact absurd h (hdrain got)
  | header | payload | trailer => simp only [LC.expireGap, h]

/-! ### Replies on TXD -/

/-- Piece `k` of a list of pieces of one length. -/
theorem take_drop_flatMap {α β : Type} {n : Nat} {g : α → List β} {l : List α} (hg : ∀ x ∈ l, (g x).length = n)
    {k : Nat} {x : α} (hx : l[k]? = some x) : ((l.flatMap g).drop (n * k)).take n = g x := by
  rw [List.flatMap_def]
  exact take_drop_flatten (by simpa using hg) (by rw [List.getElem?_map, hx]; rfl)

/-- The levels of byte `k` of the reply that is sent are the levels of its character. -/
theorem LC.txd_eq {lc : LC} {r : Reply} {rest : List Reply} (h : lc.outbox = r :: rest) {k : Nat} {b : Byte}
    (hb : (replyBytes r)[k]? = some b) {i : Nat} (hi : i < 10) :
    some (lc.txd (10 * k + i)) = (characterLevels b)[i]? := by
  have hchar := take_drop_flatMap (g := characterLevels) (n := 10) (fun _ _ => rfl) hb
  have hlevel : (replyLevels r)[10 * k + i]? = (characterLevels b)[i]? := by
    rw [← hchar, List.getElem?_take_of_lt hi, List.getElem?_drop]
    rfl
  have hsome : i < (characterLevels b).length := hi
  rw [List.getElem?_eq_getElem hsome] at hlevel ⊢
  simp only [LC.txd, h, List.getD_eq_getElem?_getD, hlevel, Option.getD_some]

/-! ### The bytes of a reply -/

/-- What the CRC of a reply covers. -/
def replyCovered (r : Reply) : List Byte :=
  leBytes 2 r.data.length ++ (r.kind + 0x80#8) :: r.tag :: statusCode r.status :: r.data

theorem replyBytes_eq (r : Reply) :
    replyBytes r = 0x3C#8 :: replyCovered r ++ leBytes 2 (crc (replyCovered r)).toNat := rfl

theorem replyCovered_length (r : Reply) : (replyCovered r).length = r.data.length + 5 := by
  simp [replyCovered]
  omega

theorem replyBytes_length (r : Reply) : (replyBytes r).length = r.data.length + 8 := by
  rw [replyBytes_eq, List.cons_append, List.length_cons, List.length_append, replyCovered_length, leBytes_length]

theorem replyBytes_drop_six (r : Reply) :
    (replyBytes r).drop 6 = r.data ++ leBytes 2 (crc (replyCovered r)).toNat := rfl

end Sys2Proof.Machine

namespace Sys2Proof.Proofs
open Sys2Proof Sys2Proof.Machine

/-- Settles O18: the framer's state decides what it does with the byte. -/
theorem framerStoresBytes : Obligations.FramerStoresBytes := by
  intro s t b
  have harrive {lc : LC} (h : s.lc.takeByte b t = lc) :
      exec (.byteArrival t b true) s = .next { s with timebase := t, lc := lc } := by
    rw [exec_byteArrival, h]
  refine ⟨fun bits stop hb hl => characterCommand_of_bits hb hl t stop, fun levels h => characterCommand_eq_none h t, rfl,
    fun hf hb => harrive ((LC.takeByte_of_hunt hf).trans (if_pos hb)),
    fun hf hb => harrive ((LC.takeByte_of_hunt hf).trans (if_neg hb)), fun hf => harrive (LC.takeByte_of_header hf),
    fun l0 hf hlong => ?_, fun l0 hf hshort => ?_, fun l0 l1 hf => harrive (LC.takeByte_of_header hf),
    fun l0 l1 kind hf hnil => ?_, fun l0 l1 kind hf hsome => ?_, fun len kind tag got hf hmore => ?_,
    fun len kind tag got hf hlast => ?_, fun len kind tag body hf => harrive (LC.takeByte_of_trailer hf),
    fun got hf hmore => ?_, fun got hf hfull => ?_⟩
  · have hdrain : afterHeader ([l0] ++ [b]) = .drain [] :=
      (afterHeader_two l0 b).trans (if_pos (hlong.trans_eq (leNat_pair l0 b).symm))
    exact harrive ((LC.takeByte_of_header hf).trans (by rw [hdrain]))
  · have hheader : afterHeader ([l0] ++ [b]) = .header [l0, b] :=
      (afterHeader_two l0 b).trans (if_neg (Nat.not_lt.mpr ((leNat_pair l0 b).trans_le hshort)))
    exact harrive ((LC.takeByte_of_header hf).trans (by rw [hheader]))
  · have htrailer : afterHeader ([l0, l1, kind] ++ [b]) = .trailer 0 kind b [] [] := by
      refine (afterHeader_four l0 l1 kind b).trans ?_
      rw [leNat_pair, hnil]
      rfl
    exact harrive ((LC.takeByte_of_header hf).trans (by rw [htrailer]))
  · have hpayload : afterHeader ([l0, l1, kind] ++ [b]) = .payload (l0.toNat + 256 * l1.toNat) kind b [] := by
      refine (afterHeader_four l0 l1 kind b).trans ?_
      rw [leNat_pair]
      exact if_pos (Nat.pos_of_ne_zero hsome)
    exact harrive ((LC.takeByte_of_header hf).trans (by rw [hpayload]))
  · have hnext : Framer.collecting len kind tag (got ++ [b]) = .payload len kind tag (got ++ [b]) :=
      if_pos (by simpa using hmore)
    exact harrive ((LC.takeByte_of_payload hf).trans (by rw [hnext]))
  · have hnext : Framer.collecting len kind tag (got ++ [b]) = .trailer len kind tag (got ++ [b]) [] :=
      if_neg (by simp [hlast])
    exact harrive ((LC.takeByte_of_payload hf).trans (by rw [hnext]))
  · exact harrive ((LC.takeByte_of_drain hf).trans (by rw [if_pos hmore]))
  · exact harrive ((LC.takeByte_of_drain hf).trans (by rw [if_neg (Nat.not_lt.mpr hfull)]))

/-- Settles O19: the CRC is right or wrong, and the inbox has room or not. -/
theorem frameCompletes : Obligations.FrameCompletes := by
  intro s t c0 c1 len kind tag body hf sound hunting
  have hexec : exec (.byteArrival t c1 true) s =
      .next { s with timebase := t, lc := hunting.complete len kind tag body [c0, c1] } := by
    rw [exec_byteArrival, LC.takeByte_of_last hf]
  have hsound : leNat [c0, c1] = (crc (framed len kind tag body)).toNat ↔ sound := by rw [leNat_pair]; rfl
  refine ⟨fun h hroom => ?_, fun h hfull => ?_, fun h => ?_⟩
  · rw [hexec, LC.complete_of_room (lc := hunting) (hsound.mpr h) hroom]
  · rw [hexec, LC.complete_of_full (lc := hunting) (hsound.mpr h) hfull]
    rfl
  · rw [hexec, LC.complete_of_ne fun hs => h (hsound.mp hs)]
    rfl

/-- Settles O20: the framer walks from the sync byte to the CRC; the payload by induction over its bytes. -/
theorem frameReachesInbox : Obligations.FrameReachesInbox := by
  intro s f stamps last hlen hhunt hroom hstamps
  obtain ⟨bytes, b, hbytes⟩ : ∃ bytes b, requestBytes f = bytes ++ [b] :=
    ⟨_, _, (List.dropLast_append_getLast (List.cons_ne_nil _ _)).symm⟩
  have hlength : stamps.length = bytes.length := by
    rw [hbytes, List.length_append, List.length_append] at hstamps
    exact Nat.add_right_cancel hstamps
  have hzip : List.zipWith (fun t b => Instr.byteArrival t b true) (stamps ++ [last]) (requestBytes f) =
      ((stamps.zip bytes) ++ [(last, b)]).map fun x => Instr.byteArrival x.1 x.2 true := by
    rw [hbytes, List.zipWith_append hlength, List.map_append, List.zip_eq_zipWith, List.map_zipWith]
    rfl
  have hrequest : ((stamps.zip bytes) ++ [(last, b)]).map Prod.snd = requestBytes f := by
    rw [hbytes, List.map_append, List.map_snd_zip hlength.ge]
    rfl
  rw [hzip, execAll_arrivals, LC.takeBytes_request hlen hhunt hroom hrequest]

/-- Settles O21: the gap by the framer's state, and the reply as the list of its bytes and of their levels. -/
theorem gapsAndReplies : Obligations.GapsAndReplies := by
  refine ⟨fun s t ht => ?_, fun s t r rest h => ?_, fun lc n h => ?_, ?_, fun r => ?_⟩
  · have hgap (hne : s.lc.framer ≠ .hunt) {lc : LC} (h : s.lc.expireGap = lc) :
        exec (.gapExpiry t) s = .next { s with timebase := t, lc := lc } := by
      rw [execGapExpiry_of_due hne ht, h]
    have hdrain {got : List Byte} (hf : s.lc.framer = .drain got) :=
      hgap (by rw [hf]; nofun) (LC.expireGap_of_drain hf)
    refine ⟨fun hpartial => ?_, fun hf => hdrain hf, fun k hf => hdrain hf, fun k g hf => hdrain hf⟩
    have hne : s.lc.framer ≠ .hunt ∧ ∀ got, s.lc.framer ≠ .drain got := by
      rcases hpartial with ⟨got, hf⟩ | ⟨len, k, g, got, hf⟩ | ⟨len, k, g, body, got, hf⟩ <;> rw [hf] <;>
        exact ⟨nofun, nofun⟩
    exact hgap hne.1 (LC.expireGap_of_partial hne.1 hne.2)
  · refine ⟨?_, fun k b hb => ⟨?_, fun i hi => ?_, ?_⟩⟩
    · have hsent : exec (.replySent t) s = .next { s with timebase := t, lc := { s.lc with outbox := s.lc.outbox.tail } } :=
        rfl
      rw [hsent, h]
      rfl
    · exact Option.some.inj (LC.txd_eq h hb (i := 0) (by omega))
    · have hlevel := LC.txd_eq h hb (i := 1 + i) (by omega)
      rw [← Nat.add_assoc] at hlevel
      refine Option.some.inj (hlevel.trans ?_)
      interval_cases i <;> rfl
    · exact Option.some.inj (LC.txd_eq h hb (i := 9) (by omega))
  · simp only [LC.txd, h]
  · decide
  · intro bytes code
    have hcode : statusCode r.status = code := by
      unfold code
      cases r.status <;> rfl
    refine ⟨?_, rfl, fun hlen => ?_, ⟨r.kind + 0x80#8, ?_, ?_⟩, ?_, ?_⟩
    · rw [replyBytes_length]
    · exact leNat_leBytes (n := 2) (by omega)
    · rw [← hcode]
      rfl
    · exact BitVec.toNat_add ..
    · exact (congrArg (List.take _) (replyBytes_drop_six r)).trans List.take_left
    · have hcovered : (bytes.drop 1).take (r.data.length + 5) = replyCovered r := by
        rw [← replyCovered_length r]
        exact List.take_left
      have hdrop : bytes.drop (6 + r.data.length) = leBytes 2 (crc (replyCovered r)).toNat := by
        rw [← List.drop_drop]
        exact (congrArg (List.drop _) (replyBytes_drop_six r)).trans List.drop_left
      have hcrc := (crc (replyCovered r)).isLt
      rw [field, hdrop, hcovered]
      exact (congrArg leNat (List.take_of_length_le (by simp))).trans (leNat_leBytes (n := 2) (by omega))

end Sys2Proof.Proofs
end

section
set_option deprecated.oldSectionVars true -- proofs in sequence: their tasks would not fit the thread limit
/-! Byte layouts: which bytes stand at which place of a report, and the report of GET_STATUS (R176, R179). -/
namespace Sys2Proof.Machine

theorem length_flatMap_of_length {α : Type} {g : α → List Byte} {n : Nat} {l : List α} (hg : ∀ e ∈ l, (g e).length = n) :
    (l.flatMap g).length = n * l.length := by
  rw [List.length_flatMap, List.map_congr_left hg, List.map_const', List.sum_replicate, smul_eq_mul, mul_comm]

theorem length_flatMap_const {α : Type} {g : α → List Byte} {n : Nat} (hg : ∀ e, (g e).length = n) (l : List α) :
    (l.flatMap g).length = n * l.length :=
  length_flatMap_of_length fun e _ => hg e

/-! ### Bytes at a place -/

/-- The bytes `x` stand at place `o` of `d`. -/
def CarriedAt (d : List Byte) (o : Nat) (x : List Byte) : Prop := ∃ a b, d = a ++ x ++ b ∧ a.length = o

namespace CarriedAt
variable {d x y : List Byte} {o n : Nat}

theorem here (x y : List Byte) : CarriedAt (x ++ y) 0 x := ⟨[], y, rfl, rfl⟩

theorem whole (x : List Byte) : CarriedAt x 0 x := ⟨[], [], (List.append_nil x).symm, rfl⟩

theorem behind (h : CarriedAt d o x) (hy : y.length = n) : CarriedAt (y ++ d) (n + o) x := by
  obtain ⟨a, b, rfl, rfl⟩ := h
  exact ⟨y ++ a, b, by simp, by rw [List.length_append, hy]⟩

theorem before (h : CarriedAt d o x) (y : List Byte) : CarriedAt (d ++ y) o x := by
  obtain ⟨a, b, rfl, ho⟩ := h
  exact ⟨a, b ++ y, by simp, ho⟩

/-- What stands in a part of `d` stands in `d`. -/
theorem trans (h : CarriedAt d o y) (h' : CarriedAt y n x) : CarriedAt d (o + n) x := by
  obtain ⟨a, b, rfl, rfl⟩ := h
  obtain ⟨a', b', rfl, rfl⟩ := h'
  exact ⟨a ++ a', b' ++ b, by simp, by simp⟩

/-- Part `k` of a list of parts stands behind the parts before it. -/
theorem flatten {parts : List (List Byte)} {k : Nat} (hx : parts[k]? = some x) (ho : (parts.take k).flatten.length = o) :
    CarriedAt parts.flatten o x := by
  obtain ⟨hk, rfl⟩ := List.getElem?_eq_some_iff.mp hx
  refine ⟨(parts.take k).flatten, (parts.drop (k + 1)).flatten, ?_, ho⟩
  have hparts : parts = parts.take k ++ parts[k] :: parts.drop (k + 1) := by
    rw [← List.drop_eq_getElem_cons hk, List.take_append_drop]
  refine (congrArg List.flatten hparts).trans ?_
  rw [List.flatten_append, List.flatten_cons, List.append_assoc]

/-- Piece `k` of pieces of one length stands at that multiple of the length. -/
theorem flatMap {α : Type} {g : α → List Byte} {l : List α} (hg : ∀ e ∈ l, (g e).length = n) {k : Nat} {e : α}
    (he : l[k]? = some e) : CarriedAt (l.flatMap g) (n * k) (g e) := by
  obtain ⟨hk, rfl⟩ := List.getElem?_eq_some_iff.mp he
  refine ⟨(l.take k).flatMap g, (l.drop (k + 1)).flatMap g, ?_, ?_⟩
  · have hl : l = l.take k ++ l[k] :: l.drop (k + 1) := by
      rw [← List.drop_eq_getElem_cons hk, List.take_append_drop]
    refine (congrArg (List.flatMap g) hl).trans ?_
    rw [List.flatMap_append, List.flatMap_cons, List.append_assoc]
  · rw [length_flatMap_of_length fun e he => hg e (List.mem_of_mem_take he), List.length_take_of_le hk.le]

/-- The bytes that stand at a place are read there. -/
theorem take_drop (h : CarriedAt d o x) (hn : x.length = n) : (d.drop o).take n = x := by
  obtain ⟨a, b, rfl, rfl⟩ := h
  rw [List.append_assoc, List.drop_left, List.take_left' hn]

/-- The number that stands at a place is the field there. -/
theorem field {v : Nat} (h : CarriedAt d o (leBytes n v)) (hv : v < 256 ^ n) : field d o n = v := by
  rw [Machine.field, h.take_drop (leBytes_length n v), leNat_leBytes hv]

end CarriedAt

theorem flagByte_eq_leBytes (b : Bool) : [flagByte b] = leBytes 1 (if b then 1 else 0) := by cases b <;> rfl

/-- A signed number of two bytes, in two's complement. -/
theorem leInt_two (v : Int) : leInt 2 v = leBytes 2 (v % 65536).toNat := rfl

theorem Quad.getElem_toList {α : Type} (q : Quad α) (c : Fin 4) : q.toList[c.val]? = some (q.get c) := by
  fin_cases c <;> rfl

theorem Trio.getElem_toList {α : Type} (q : Trio α) (i : Fin 3) : q.toList[i.val]? = some (q.get i) := by
  fin_cases i <;> rfl

/-- The piece of one of four things. -/
theorem CarriedAt.quad {α : Type} {g : α → List Byte} {n : Nat} (hg : ∀ e, (g e).length = n) (q : Quad α) (c : Fin 4) :
    CarriedAt (q.toList.flatMap g) (n * c.val) (g (q.get c)) :=
  .flatMap (fun e _ => hg e) (q.getElem_toList c)

theorem NoticeKind.getElem_noticeKinds (k : NoticeKind) : noticeKinds[k.code - 1]? = some k := by cases k <;> rfl

theorem FaultKind.getElem_faultKinds (k : FaultKind) : faultKinds[k.code - 1]? = some k := by cases k <;> rfl

/-! ### Flags packed in a number -/

theorem cameraBits_testBit (q : Quad Bool) (c : Camera) : (cameraBits q).testBit c.val = q.get c := by
  obtain ⟨a, b, d, e⟩ := q
  revert a b d e c
  decide

theorem cameraBits_lt (q : Quad Bool) : cameraBits q < 16 := by
  obtain ⟨a, b, d, e⟩ := q
  revert a b d e
  decide

theorem testBit_toNat_add_two_mul (b : Bool) (n : Nat) :
    (b.toNat + 2 * n).testBit 0 = b ∧ ∀ i, (b.toNat + 2 * n).testBit (i + 1) = n.testBit i := by
  constructor
  · cases b <;> simp [Nat.testBit_zero]
  · intro i
    have hhalf : (b.toNat + 2 * n) / 2 = n := by have := b.toNat_lt; omega
    rw [Nat.testBit_succ, hhalf]

/-- The marks of one source, kind by kind from the lowest bit. -/
theorem stickyWord_eq (p : PerFault Bool) :
    stickyWord p = p.lineLength.toNat + 2 * (p.struct.toNat + 2 * (p.infoCrc.toNat + 2 * (p.period.toNat +
      2 * (p.overflow.toNat + 2 * (p.skip.toNat + 2 * (p.poison.toNat + 2 * (p.silence.toNat + 2 * (p.eccFixed.toNat +
      2 * (p.underrun.toNat + 2 * 0))))))))) := by
  have hbit (b : Bool) (n : Nat) : (if b = true then n else 0) = n * b.toNat := by cases b <;> simp
  simp only [stickyWord, faultKinds, List.map_cons, List.map_nil, List.sum_cons, List.sum_nil, FaultKind.code, hbit,
    Nat.reduceSub, Nat.reducePow]
  simp only [PerFault.get]
  omega

theorem stickyWord_testBit (p : PerFault Bool) (k : FaultKind) : (stickyWord p).testBit (k.code - 1) = p.get k := by
  have hbit (b : Bool) (n : Nat) := testBit_toNat_add_two_mul b n
  rw [stickyWord_eq]
  cases k <;> simp only [FaultKind.code, Nat.reduceSub, (hbit _ _).1, (hbit _ _).2, PerFault.get]

theorem stickyWord_lt (p : PerFault Bool) : stickyWord p < 1024 := by
  have hbit (b : Bool) := b.toNat_le
  rw [stickyWord_eq]
  have := hbit p.lineLength
  have := hbit p.struct
  have := hbit p.infoCrc
  have := hbit p.period
  have := hbit p.overflow
  have := hbit p.skip
  have := hbit p.poison
  have := hbit p.silence
  have := hbit p.eccFixed
  have := hbit p.underrun
  omega

/-! ### GET_STATUS -/

theorem slotBytesOf_length (x : SlotRecord) : (slotBytesOf x).length = 12 := by simp [slotBytesOf]

/-- A slot record's bytes, state by state. -/
theorem slotBytesOf_eq (x : SlotRecord) :
    slotBytesOf x = match x with
      | .free => leBytes 12 0
      | .filling o => leBytes 1 1 ++ leBytes 1 0 ++ leBytes 4 o.toNat ++ leBytes 4 0 ++ leBytes 2 0
      | .ready o e n => leBytes 1 2 ++ leBytes 1 0 ++ leBytes 4 o.toNat ++ leBytes 4 e.toNat ++ leBytes 2 n.toNat
      | .held o e n p _ =>
        leBytes 1 3 ++ leBytes 1 (if p then 1 else 0) ++ leBytes 4 o.toNat ++ leBytes 4 e.toNat ++ leBytes 2 n.toNat := by
  cases x with
  | free | filling | ready => rfl
  | held o e n p r => cases p <;> rfl

theorem camUpdateBytes_length (x : CamUpdate) : (camUpdateBytes x).length = 14 := by simp [camUpdateBytes]

theorem camUpdateBytes_eq (x : CamUpdate) :
    camUpdateBytes x = leBytes 4 x.coverage ++
      leBytes 1 (match x.outcome with
        | .updated => 0
        | .heldNoSeam => 1
        | .heldOwnZero => 2
        | .heldOff => 3) ++
      leBytes 2 x.oldGain ++ leBytes 1 (if x.reliefUsed then 1 else 0) ++
      (match x.move with
        | none => leBytes 4 0
        | some (ratio, move) => leBytes 2 ratio ++ leBytes 2 (move % 65536).toNat) ++
      leBytes 2 x.newGain := by
  obtain ⟨cov, out, old, rel, mv, new⟩ := x
  rw [← flagByte_eq_leBytes]
  cases out <;> cases mv <;> simp [camUpdateBytes, UpdateOutcome.code, leInt_two, leBytes]

/-- One seam of the last update record, 13 bytes. -/
def seamUpdateBytes (e : SeamSums × Bool) : List Byte :=
  leBytes 4 e.1.n ++ leBytes 4 e.1.sa ++ leBytes 4 e.1.sb ++ [flagByte e.2]

theorem updateBytes_some (u : UpdateRecord) :
    updateBytes (some u) = [leBytes 1 1 ++ leBytes 4 u.frameNo.toNat ++ leBytes 1 (if u.auto then 1 else 0),
      u.seams.toList.flatMap seamUpdateBytes, u.cams.toList.flatMap camUpdateBytes].flatten := by
  rw [← flagByte_eq_leBytes]
  simp [updateBytes, leBytes]
  rfl

theorem seamUpdateBytes_length (e : SeamSums × Bool) : (seamUpdateBytes e).length = 13 := by simp [seamUpdateBytes]

theorem updateBytes_length (u : Option UpdateRecord) : (updateBytes u).length = 114 := by
  cases u with
  | none => exact leBytes_length ..
  | some u =>
    rw [updateBytes_some]
    simp [seamUpdateBytes_length, camUpdateBytes_length, Quad.toList]

theorem harmoniseBytes_eq (h : HU) :
    harmoniseBytes h = [h.settings.bytes, h.gains.toList.flatMap (leBytes 2), leBytes 1 (cameraBits h.relief),
      updateBytes h.last].flatten := by
  simp [harmoniseBytes, gainBytes]

theorem harmSettingsBytes_length (h : HarmSettings) : h.bytes.length = 9 := by simp [HarmSettings.bytes]

theorem harmoniseBytes_length (h : HU) : (harmoniseBytes h).length = 132 := by
  rw [harmoniseBytes_eq]
  simp [harmSettingsBytes_length, updateBytes_length, Quad.toList]

theorem ringBytes_length (q : Quad Ring) : (ringBytes q).length = 144 := by
  have hring (r : Ring) : (r.toList.flatMap slotBytesOf).length = 36 := by
    rw [length_flatMap_const slotBytesOf_length]
    rfl
  rw [ringBytes, length_flatMap_const hring]
  rfl

theorem viewBytes_eq (v : VS) :
    viewBytes v = [v.slots.toList.flatMap fun x => leBytes 1 x.state.code,
      leBytes 1 v.selection.code ++ leBytes 1 v.pendingBody.toNat ++ leBytes 1 v.body.toNat ++
        [v.fill.y, v.fill.cb, v.fill.cr]].flatten := by
  simp [viewBytes]

theorem viewBytes_length (v : VS) : (viewBytes v).length = 10 := by simp [viewBytes, Quad.toList]

/-- The two policy bytes of a notice kind. -/
def noticePolicyPair (q : NQ) (k : NoticeKind) : List Byte :=
  [flagByte (q.policy.get k).masked, BitVec.ofNat 8 (q.policy.get k).priority.val]

theorem noticeBytes_eq (q : NQ) :
    noticeBytes q = [leBytes 1 q.queue.length ++ leBytes 1 (if q.lost then 1 else 0) ++
        leBytes 1 (if q.attention then 1 else 0) ++ leBytes 1 q.threshold.val ++ leBytes 1 (if q.activeHigh then 1 else 0),
      noticeKinds.flatMap (noticePolicyPair q), leBytes 1 q.history.length].flatten := by
  simp only [← flagByte_eq_leBytes]
  simp [noticeBytes]
  rfl

theorem noticeBytes_length (q : NQ) : (noticeBytes q).length = 24 := by
  rw [noticeBytes_eq]
  simp [noticePolicyPair, noticeKinds]

theorem noticePolicies_length (q : NQ) : (noticeKinds.flatMap (noticePolicyPair q)).length = 18 := rfl

/-- The eight groups of GET_STATUS. -/
def statusGroups (s : State) : List (List Byte) :=
  [runBytes s, pacingBytes s.pu, outputBytes s.ce s.op, s.cr.toList.flatMap fun r => leBytes 1 r.qual.code,
    ringBytes s.fmc.rings, viewBytes s.vs, harmoniseBytes s.hu, noticeBytes s.nq]

theorem statusBytes_eq (s : State) : statusBytes s = (statusGroups s).flatten := by simp [statusBytes, statusGroups]

theorem statusGroups_lengths (s : State) : (statusGroups s).map List.length = [5, 20, 8, 4, 144, 10, 132, 24] := by
  simp [statusGroups, ringBytes_length, viewBytes_length, harmoniseBytes_length, noticeBytes_length, runBytes, pacingBytes,
    outputBytes, Quad.toList]

/-- Each group stands behind the groups before it. -/
theorem CarriedAt.status {s : State} {k o : Nat} {x : List Byte} (hx : (statusGroups s)[k]? = some x)
    (ho : ([5, 20, 8, 4, 144, 10, 132, 24].take k).sum = o) : CarriedAt (statusBytes s) o x := by
  rw [statusBytes_eq]
  exact .flatten hx (by rw [List.length_flatten, List.map_take, statusGroups_lengths, ho])

theorem statusBytes_length (s : State) : (statusBytes s).length = 347 := by
  rw [statusBytes_eq, List.length_flatten, statusGroups_lengths]
  rfl

section
variable (s : State)

theorem statusBytes_qual (c : Camera) : CarriedAt (statusBytes s) (33 + 1 * c.val) (leBytes 1 (s.cr.get c).qual.code) :=
  (CarriedAt.status (k := 3) rfl rfl).trans (.quad (g := fun r => leBytes 1 r.qual.code) (fun _ => leBytes_length ..) s.cr c)

theorem statusBytes_slot (c : Camera) (i : Fin 3) :
    CarriedAt (statusBytes s) (37 + (36 * c.val + 12 * i.val)) (slotBytesOf ((s.fmc.rings.get c).get i)) := by
  have hring (r : Ring) : (r.toList.flatMap slotBytesOf).length = 36 := by
    rw [length_flatMap_const slotBytesOf_length]
    rfl
  exact (CarriedAt.status (k := 4) rfl rfl).trans ((CarriedAt.quad hring s.fmc.rings c).trans
    (.flatMap (fun e _ => slotBytesOf_length e) (Trio.getElem_toList _ i)))

theorem statusBytes_view (v : Fin 4) :
    CarriedAt (statusBytes s) (181 + (0 + 1 * v.val)) (leBytes 1 (s.vs.slots.get v).state.code) := by
  refine (CarriedAt.status (k := 5) rfl rfl).trans ?_
  rw [viewBytes_eq]
  exact (CarriedAt.flatten (k := 0) rfl rfl).trans
    (.quad (g := fun x => leBytes 1 x.state.code) (fun _ => leBytes_length ..) s.vs.slots v)

theorem statusBytes_selection :
    CarriedAt (statusBytes s) 185 (leBytes 1 s.vs.selection.code ++ leBytes 1 s.vs.pendingBody.toNat ++
      leBytes 1 s.vs.body.toNat ++ [s.vs.fill.y, s.vs.fill.cb, s.vs.fill.cr]) := by
  refine (CarriedAt.status (k := 5) (o := 181) rfl rfl).trans (n := 4) ?_
  rw [viewBytes_eq]
  exact .flatten (k := 1) rfl rfl

/-- A part of the harmonisation group. -/
theorem statusBytes_harmonise {k o : Nat} {x : List Byte}
    (hx : [s.hu.settings.bytes, s.hu.gains.toList.flatMap (leBytes 2), leBytes 1 (cameraBits s.hu.relief),
      updateBytes s.hu.last][k]? = some x) (ho : ([9, 8, 1, 114].take k).sum = o) :
    CarriedAt (statusBytes s) (191 + o) x := by
  refine (CarriedAt.status (k := 6) rfl rfl).trans ?_
  rw [harmoniseBytes_eq]
  refine .flatten hx ?_
  rw [List.length_flatten, List.map_take]
  simp only [List.map_cons, List.map_nil, harmSettingsBytes_length, length_flatMap_const (leBytes_length 2), leBytes_length,
    updateBytes_length]
  exact ho

/-- A part of the last update record. -/
theorem statusBytes_update {u : UpdateRecord} (hu : s.hu.last = some u) {k o : Nat} {x : List Byte}
    (hx : [leBytes 1 1 ++ leBytes 4 u.frameNo.toNat ++ leBytes 1 (if u.auto then 1 else 0),
      u.seams.toList.flatMap seamUpdateBytes, u.cams.toList.flatMap camUpdateBytes][k]? = some x)
    (ho : ([6, 52, 56].take k).sum = o) : CarriedAt (statusBytes s) (209 + o) x := by
  refine (statusBytes_harmonise s (k := 3) (o := 18) rfl rfl).trans ?_
  rw [hu, updateBytes_some]
  refine .flatten hx ?_
  rw [List.length_flatten, List.map_take]
  simp only [List.map_cons, List.map_nil, length_flatMap_const seamUpdateBytes_length,
    length_flatMap_const camUpdateBytes_length]
  exact ho

/-- A part of the notice group. -/
theorem statusBytes_notice {k o : Nat} {x : List Byte}
    (hx : [leBytes 1 s.nq.queue.length ++ leBytes 1 (if s.nq.lost then 1 else 0) ++
        leBytes 1 (if s.nq.attention then 1 else 0) ++ leBytes 1 s.nq.threshold.val ++
        leBytes 1 (if s.nq.activeHigh then 1 else 0),
      noticeKinds.flatMap (noticePolicyPair s.nq), leBytes 1 s.nq.history.length][k]? = some x)
    (ho : ([5, 18, 1].take k).sum = o) : CarriedAt (statusBytes s) (323 + o) x := by
  refine (CarriedAt.status (k := 7) rfl rfl).trans ?_
  rw [noticeBytes_eq]
  refine .flatten hx ?_
  rw [List.length_flatten, List.map_take]
  simp only [List.map_cons, List.map_nil, noticePolicies_length]
  exact ho

end

theorem noticePolicyPair_eq (q : NQ) (k : NoticeKind) :
    noticePolicyPair q k =
      leBytes 1 (if (q.policy.get k).masked then 1 else 0) ++ leBytes 1 (q.policy.get k).priority.val := by
  rw [← flagByte_eq_leBytes]
  rfl

theorem outputBytes_eq (ce : CE) (o : OP) :
    outputBytes ce o = leBytes 1 ce.state.code ++
      leBytes 2 (match ce.state with
        | .idle => 0
        | .composing | .full => ce.line
        | .finished => 960) ++
      leBytes 1 o.fifo.length ++ leBytes 2 o.counter ++ leBytes 2 o.underruns := by
  unfold outputBytes CE.reportedLine
  cases ce.state <;> rfl

theorem harmSettingsBytes_eq (h : HarmSettings) :
    h.bytes = leBytes 1 (if h.auto then 1 else 0) ++ leBytes 1 h.stepLimit ++ leBytes 2 h.gmin ++ leBytes 2 h.gmax ++
      leBytes 2 h.nmin ++ leBytes 1 (if h.relief then 1 else 0) := by
  rw [← flagByte_eq_leBytes, ← flagByte_eq_leBytes]
  rfl

end Sys2Proof.Machine

namespace Sys2Proof.Proofs
open Sys2Proof Sys2Proof.Machine

/-- Settles O23: the report is the list of its groups, and each value is read where its group's bytes stand. -/
theorem statusReport : Obligations.StatusReport := by
  intro s t g rest ha
  have hexec : exec (.getStatus t g []) s = .next (s.answered t rest 0x02#8 g .ok (statusBytes (s.taken t rest))) :=
    serve_taken ha
  refine ⟨_, hexec, statusBytes_length _, ?_, ?_, ?_, fun c => ?_, fun c i => ?_, fun v => ?_, ?_, ?_, fun c => ?_,
    fun c => ?_, fun hu => ?_, fun u hu => ⟨?_, fun k => ?_, fun c => ?_⟩, ?_, ?_, fun k => ?_, ?_⟩
  · exact (CarriedAt.status (k := 0) rfl rfl).take_drop rfl
  · exact (CarriedAt.status (k := 1) rfl rfl).take_drop rfl
  · exact ((CarriedAt.status (k := 2) rfl rfl).take_drop rfl).trans (outputBytes_eq ..)
  · rw [← Nat.one_mul c.val]
    exact (statusBytes_qual _ c).take_drop rfl
  · rw [Nat.add_assoc]
    exact ((statusBytes_slot _ c i).take_drop (slotBytesOf_length _)).trans (slotBytesOf_eq _)
  · rw [← Nat.one_mul v.val, ← Nat.zero_add (1 * v.val)]
    exact (statusBytes_view _ v).take_drop rfl
  · exact (statusBytes_selection _).take_drop rfl
  · exact ((statusBytes_harmonise _ (k := 0) (o := 0) rfl rfl).take_drop rfl).trans (harmSettingsBytes_eq _)
  · exact ((statusBytes_harmonise _ (k := 1) (o := 9) rfl rfl).trans (.quad (fun e => leBytes_length 2 e) _ c)).take_drop rfl
  · rw [(statusBytes_harmonise _ (k := 2) (o := 17) rfl rfl).field ((cameraBits_lt _).trans (by decide))]
    exact cameraBits_testBit _ c
  · have hall := statusBytes_harmonise (s.taken t rest) (k := 3) (o := 18) rfl rfl
    rw [show (s.taken t rest).hu.last = none from hu] at hall
    exact hall.take_drop rfl
  · exact (statusBytes_update (s.taken t rest) hu (k := 0) (o := 0) rfl rfl).take_drop rfl
  · have hseam := (statusBytes_update (s.taken t rest) hu (k := 1) (o := 6) rfl rfl).trans
      (.quad seamUpdateBytes_length u.seams k)
    refine (hseam.take_drop (seamUpdateBytes_length _)).trans ?_
    rw [← flagByte_eq_leBytes]
    rfl
  · have hcam := (statusBytes_update (s.taken t rest) hu (k := 2) (o := 58) rfl rfl).trans
      (.quad camUpdateBytes_length u.cams c)
    exact (hcam.take_drop (camUpdateBytes_length _)).trans (camUpdateBytes_eq _)
  · exact ⟨rfl, rfl, rfl, rfl, rfl, rfl, fun _ => rfl⟩
  · exact (statusBytes_notice _ (k := 0) (o := 0) rfl rfl).take_drop rfl
  · have hpolicy := (statusBytes_notice (s.taken t rest) (k := 1) (o := 5) rfl rfl).trans
      (.flatMap (g := noticePolicyPair s.nq) (n := 2) (fun _ _ => rfl) k.getElem_noticeKinds)
    exact (hpolicy.take_drop rfl).trans (noticePolicyPair_eq _ k)
  · exact (statusBytes_notice _ (k := 2) (o := 23) rfl rfl).take_drop rfl

end Sys2Proof.Proofs
end

section
set_option deprecated.oldSectionVars true -- proofs in sequence: their tasks would not fit the thread limit
/-! The other reports: GET_CAMERA, GET_FAULTS, READ_NODES and GET_HISTORY, and the node records on the link (R34, R39,
R74, R156, R165, R174, R179, R180). -/
namespace Sys2Proof.Machine

/-- A request with the length that the catalogue gives runs behind steps 2 and 3 of R172. -/
theorem serve_ready {s : State} {kind tag : Byte} {p : List Byte} {rest : List Frame} {n : Nat} {k : Served}
    (body : State → Served) (t : Stamp) (h : s.asksReady kind tag p rest)
    (hbody : body (s.taken t rest) = whenReady (s.taken t rest) (whenLength (s.taken t rest) p n k)) (hp : p.length = n) :
    serve kind t tag p body s = .next (k.finish kind tag) := by
  rw [serve_taken h.asks, hbody, whenReady_of_operational (h.operational t), whenLength_of_length _ hp]

/-! ### GET_CAMERA -/

theorem receptionBytes_eq (o : Option OpenFrame) :
    receptionBytes o = match o with
      | none => leBytes 1 0 ++ leBytes 2 0
      | some f => leBytes 1 (match f.failure with
          | none => 1
          | some _ => 2) ++ leBytes 2 f.next := by
  cases o with
  | none => rfl
  | some f =>
    simp only [receptionBytes]
    cases f.failure <;> rfl

theorem optBytes_half (v : Option Half) :
    optBytes 2 (v.map BitVec.toNat) = match v with
      | none => leBytes 3 0
      | some v => leBytes 1 1 ++ leBytes 2 v.toNat := by
  cases v <;> rfl

theorem infoBytes_eq (i : Option Info) :
    infoBytes i = match i with
      | none => leBytes 9 0
      | some i => leBytes 1 1 ++ leBytes 2 i.counter.toNat ++ leBytes 2 i.brightness.toNat ++ leBytes 2 i.exposure.toNat ++
          [i.gainCode, i.temperature] := by
  cases i <;> rfl

/-- The descriptor's part of GET_CAMERA: its presence, then its fields. -/
def descriptorPart (d : Option Descriptor) : List Byte :=
  flagByte d.isSome :: (d.map Descriptor.bytes).getD (leBytes 19 0)

theorem descriptorPart_length (d : Option Descriptor) : (descriptorPart d).length = 20 := by cases d <;> rfl

theorem receptionBytes_length (o : Option OpenFrame) : (receptionBytes o).length = 3 := by cases o <;> rfl

theorem infoBytes_length (i : Option Info) : (infoBytes i).length = 9 := by cases i <;> rfl

/-- The parts of GET_CAMERA. -/
def cameraParts (r : Receiver) (gain : Nat) (relief : Bool) : List (List Byte) :=
  [descriptorPart r.descriptor, leBytes 1 r.qual.code ++ leBytes 1 r.goodRun ++ leBytes 1 r.badRun,
    receptionBytes r.openFrame, infoBytes r.lastInfo, optBytes 2 (r.bprev.map BitVec.toNat),
    optBytes 2 (r.lastPublished.map BitVec.toNat), leBytes 2 gain ++ leBytes 1 (if relief then 1 else 0),
    counterBytes r.counters]

theorem cameraBytes_eq (r : Receiver) (gain : Nat) (relief : Bool) :
    cameraBytes r gain relief = (cameraParts r gain relief).flatten := by
  rw [cameraParts, ← flagByte_eq_leBytes]
  simp [cameraBytes, descriptorPart]

theorem cameraParts_lengths (r : Receiver) (gain : Nat) (relief : Bool) :
    (cameraParts r gain relief).map List.length = [20, 3, 3, 9, 3, 3, 3, 40] := by
  simp only [cameraParts, List.map_cons, List.map_nil, descriptorPart_length, receptionBytes_length, infoBytes_length]
  rfl

theorem CarriedAt.camera {r : Receiver} {gain : Nat} {relief : Bool} {k o : Nat} {x : List Byte}
    (hx : (cameraParts r gain relief)[k]? = some x) (ho : ([20, 3, 3, 9, 3, 3, 3, 40].take k).sum = o) :
    CarriedAt (cameraBytes r gain relief) o x := by
  rw [cameraBytes_eq]
  exact .flatten hx (by rw [List.length_flatten, List.map_take, cameraParts_lengths, ho])

theorem cameraBytes_length (r : Receiver) (gain : Nat) (relief : Bool) : (cameraBytes r gain relief).length = 84 := by
  rw [cameraBytes_eq, List.length_flatten, cameraParts_lengths]
  rfl

/-! ### GET_FAULTS -/

theorem stickyBytes_length (f : FU) : (stickyBytes f).length = 10 := rfl

theorem firstFaultBytes_length (x : Option FirstFault) : (firstFaultBytes x).length = 14 := by cases x <;> rfl

theorem firstFaultBytes_some (x : FirstFault) :
    firstFaultBytes (some x) =
      leBytes 1 1 ++ leBytes 1 x.fault.kind.code ++ leBytes 1 x.fault.source.code ++ leBytes 4 x.fault.stamp.toNat ++
      leBytes 1 ((if x.fault.counter.isSome then 1 else 0) + (if x.fault.line.isSome then 2 else 0) +
        (if x.fault.slot.isSome then 4 else 0)) ++
      leBytes 2 ((x.fault.counter.map BitVec.toNat).getD 0) ++ leBytes 2 (x.fault.line.getD 0) ++
      leBytes 1 ((x.fault.slot.map Fin.val).getD 0) ++ leBytes 1 (if x.more then 1 else 0) := by
  rw [← flagByte_eq_leBytes]
  rfl

/-- The parts of GET_FAULTS. -/
def faultParts (f : FU) : List (List Byte) :=
  [stickyBytes f, firstFaultBytes f.first, faultPolicyBytes f.policy, leBytes 1 (cameraBits f.withheld),
    leBytes 4 f.withheldFrame.toNat]

theorem faultBytes_eq (f : FU) : faultBytes f = (faultParts f).flatten := by simp [faultBytes, faultParts]

theorem faultParts_lengths (f : FU) : (faultParts f).map List.length = [10, 14, 20, 1, 4] := by
  simp only [faultParts, List.map_cons, List.map_nil, firstFaultBytes_length]
  rfl

theorem CarriedAt.fault {f : FU} {k o : Nat} {x : List Byte} (hx : (faultParts f)[k]? = some x)
    (ho : ([10, 14, 20, 1, 4].take k).sum = o) : CarriedAt (faultBytes f) o x := by
  rw [faultBytes_eq]
  exact .flatten hx (by rw [List.length_flatten, List.map_take, faultParts_lengths, ho])

theorem faultBytes_length (f : FU) : (faultBytes f).length = 49 := by
  rw [faultBytes_eq, List.length_flatten, faultParts_lengths]
  rfl

theorem faultPolicyBytes_carried (p : PerFault FaultPolicy) (k : FaultKind) :
    CarriedAt (faultPolicyBytes p) (2 * (k.code - 1))
      (leBytes 1 (if (p.get k).masked then 1 else 0) ++ leBytes 1 (if (p.get k).containing then 1 else 0)) := by
  rw [← flagByte_eq_leBytes, ← flagByte_eq_leBytes]
  exact .flatMap (g := fun k => [flagByte (p.get k).masked, flagByte (p.get k).containing]) (n := 2) (fun _ _ => rfl)
    k.getElem_faultKinds

theorem stickyBytes_cam (f : FU) (c : Camera) :
    CarriedAt (stickyBytes f) (2 * c.val) (leBytes 2 (stickyWord (f.sticky.get c))) :=
  (CarriedAt.quad (g := fun m => leBytes 2 (stickyWord m)) (fun _ => leBytes_length ..) f.sticky c).before _

theorem stickyBytes_out (f : FU) : CarriedAt (stickyBytes f) 8 (leBytes 2 (stickyWord f.stickyOut)) :=
  (CarriedAt.whole _).behind (n := 8) rfl

/-! ### READ_NODES -/

/-- The payload of READ_NODES: slot, first node, count (R174). -/
def readPayload (b : Byte) (first : Nat) (n : Byte) : List Byte := b :: leBytes 2 first ++ [n]

theorem readPayload_eq (b : Byte) (first : Nat) (n : Byte) : readPayload b first n = loadPayload b first n [] := rfl

theorem nodeCamBytes_length (n : NodeCam) : n.bytes.length = 7 := by
  unfold NodeCam.bytes
  split <;> simp

theorem nodeRecordBytes_length (x : NodeRecord) : (nodeRecordBytes x).length = 28 := by
  rw [nodeRecordBytes, length_flatMap_const nodeCamBytes_length]
  rfl

/-- A node as READ_NODES returns it: all zero where it is unwritten. -/
theorem nodeReply_eq (nodes : List (Nat × NodeRecord)) (i : Nat) :
    nodeReply nodes i = match keyGet nodes i with
      | none => leBytes 29 0
      | some x => 1#8 :: nodeRecordBytes x := by
  unfold nodeReply nodeAt
  cases keyGet nodes i <;> rfl

theorem nodeReply_length (nodes : List (Nat × NodeRecord)) (i : Nat) : (nodeReply nodes i).length = 29 := by
  rw [nodeReply, List.length_cons, nodeRecordBytes_length]

section
variable {s : State} {b n : Byte} {first : Nat} (hs : s.pu.run.operational = true) (hfirst : first < 65536)
include hs hfirst

/-- READ_NODES behind steps 2 and 3 of R172. -/
theorem reqReadNodes_of_operational :
    reqReadNodes (readPayload b first n) s =
      if nodeRunOk first n.toNat then
        withIndex s b.toNat fun v =>
          match (s.vs.slots.get v).state with
          | .loading | .ready | .pending | .active =>
            .reply s .ok ((List.range n.toNat).flatMap fun k => nodeReply (s.vs.slots.get v).nodes (first + k))
          | .empty | .closing => refuse s .wrongState
      else refuse s .badValue := by
  refine (whenReady_of_operational hs _).trans ((whenLength_of_length _ rfl _).trans ?_)
  simp only [readPayload_eq, loadPayload_slot, loadPayload_count, loadPayload_first hfirst] <;> rfl

theorem reqReadNodes_of_out_of_range (hbad : ¬ (b.toNat < 4 ∧ 1 ≤ n.toNat ∧ n.toNat ≤ 16 ∧ first + n.toNat ≤ 2806)) :
    reqReadNodes (readPayload b first n) s = refuse s .badValue := by
  rw [reqReadNodes_of_operational hs hfirst]
  by_cases hrun : nodeRunOk first n.toNat = true
  · have hb : 4 ≤ b.toNat := Nat.not_lt.mp fun hb => hbad ⟨hb, (nodeRunOk_iff first _).mp hrun⟩
    rw [if_pos hrun, withIndex_of_le s hb]
  · rw [if_neg hrun]

variable (hrun : 1 ≤ n.toNat ∧ n.toNat ≤ 16 ∧ first + n.toNat ≤ 2806) {v : Fin 4} (hv : b.toNat = v.val)
include hrun hv

theorem reqReadNodes_of_unreadable (hx : (s.vs.slots.get v).state = .empty ∨ (s.vs.slots.get v).state = .closing) :
    reqReadNodes (readPayload b first n) s = refuse s .wrongState := by
  rw [reqReadNodes_of_operational hs hfirst, if_pos ((nodeRunOk_iff first _).mpr hrun), withIndex_of_eq s hv]
  rcases hx with hx | hx <;> rw [hx]

theorem reqReadNodes_of_readable (hne : (s.vs.slots.get v).state ≠ .empty) (hnc : (s.vs.slots.get v).state ≠ .closing) :
    reqReadNodes (readPayload b first n) s =
      .reply s .ok ((List.range n.toNat).flatMap fun k => nodeReply (s.vs.slots.get v).nodes (first + k)) := by
  rw [reqReadNodes_of_operational hs hfirst, if_pos ((nodeRunOk_iff first _).mpr hrun), withIndex_of_eq s hv]
  cases hx : (s.vs.slots.get v).state with
  | empty => exact absurd hx hne
  | closing => exact absurd hx hnc
  | loading | ready | pending | active => rfl

end

/-! ### Node records -/

/-- A coordinate in range survives its three bytes. -/
theorem signed24_leInt {v : Int} (hlo : -524288 ≤ v) (hhi : v ≤ 524287) : signed24 (leInt 3 v) = v := by
  have hread : leNat (leInt 3 v) = (v % 16777216).toNat := leNat_leBytes (n := 3) (by omega)
  rw [signed24, hread, BitVec.toInt_eq_toNat_cond, BitVec.toNat_ofNat]
  split <;> omega

theorem nodeCamOf_bytes {n : NodeCam} (h : n.inRange = true) : nodeCamOf n.bytes = n := by
  obtain ⟨hw, hc⟩ := (NodeCam.inRange_iff n).mp h
  obtain ⟨coord, w⟩ := n
  cases coord with
  | none =>
    have hweight : field (NodeCam.bytes ⟨none, w⟩) 6 1 = w :=
      ((CarriedAt.whole (leBytes 1 w)).behind (n := 6) (y := leBytes 6 0) rfl).field (by dsimp only at hw; omega)
    dsimp only at hw
    simp only [nodeCamOf, hweight]
    rw [if_neg (by omega), Nat.mod_eq_of_lt (by omega)]
  | some x =>
    obtain ⟨u, v⟩ := x
    obtain ⟨hu, hv⟩ := hc u v rfl
    have hweight : field (NodeCam.bytes ⟨some (u, v), w⟩) 6 1 = 128 + w :=
      ((CarriedAt.whole (leBytes 1 (128 + w))).behind (n := 6) (y := leInt 3 u ++ leInt 3 v) rfl).field
        (by dsimp only at hw; omega)
    have hcoords : (NodeCam.bytes ⟨some (u, v), w⟩).take 3 = leInt 3 u ∧
        ((NodeCam.bytes ⟨some (u, v), w⟩).drop 3).take 3 = leInt 3 v := ⟨rfl, rfl⟩
    dsimp only at hw
    simp only [nodeCamOf, hweight, hcoords.1, hcoords.2]
    rw [if_pos (by omega), signed24_leInt hu.1 hu.2, signed24_leInt hv.1 hv.2]
    congr
    omega

theorem nodeRecordOf_bytes {x : NodeRecord} (h : nodeRecordInRange x = true) : nodeRecordOf (nodeRecordBytes x) = x := by
  refine Quad.ext_get fun c => ?_
  rw [nodeRecordOf_get, nodeRecordBytes, (CarriedAt.quad nodeCamBytes_length x c).take_drop (nodeCamBytes_length _)]
  exact nodeCamOf_bytes ((nodeRecordInRange_iff x).mp h c)

/-! ### GET_HISTORY -/

/-- What the record of one camera holds, as a number of presence bits. -/
def CamSummary.bits (y : CamSummary) : Nat :=
  (if y.counter.isSome then 1 else 0) + (if y.age.isSome then 2 else 0) + (if y.repeated then 4 else 0)

/-- The parts of one camera in a frame summary. -/
def camSummaryParts (y : CamSummary) : List (List Byte) :=
  [leBytes 1 y.disposition.code, leBytes 1 y.bits, leBytes 2 ((y.counter.map BitVec.toNat).getD 0),
    leBytes 4 ((y.age.map BitVec.toNat).getD 0), leBytes 4 y.coverage, leBytes 2 y.gain]

theorem camSummaryBytes_eq (y : CamSummary) : camSummaryBytes y = (camSummaryParts y).flatten := by
  simp [camSummaryBytes, camSummaryParts, CamSummary.bits]

theorem camSummaryBytes_length (y : CamSummary) : (camSummaryBytes y).length = 14 := rfl

theorem CarriedAt.camSummary {y : CamSummary} {k o : Nat} {x : List Byte} (hx : (camSummaryParts y)[k]? = some x)
    (ho : ([1, 1, 2, 4, 4, 2].take k).sum = o) : CarriedAt (camSummaryBytes y) o x := by
  have hlengths : (camSummaryParts y).map List.length = [1, 1, 2, 4, 4, 2] := rfl
  rw [camSummaryBytes_eq]
  exact .flatten hx (by rw [List.length_flatten, List.map_take, hlengths, ho])

/-- The parts of a frame summary. -/
def summaryParts (x : Summary) : List (List Byte) :=
  [leBytes 4 x.frameNo.toNat, leBytes 4 x.start.toNat, leBytes 1 ((x.view.map Fin.val).getD 255), leBytes 1 x.body.toNat,
    x.seamCounts.toList.flatMap (leBytes 4), leBytes 2 x.underruns, x.cams.toList.flatMap camSummaryBytes]

theorem summaryBytes_eq (x : Summary) : x.bytes = (summaryParts x).flatten := by simp [Summary.bytes, summaryParts]

theorem summaryParts_lengths (x : Summary) : (summaryParts x).map List.length = [4, 4, 1, 1, 16, 2, 56] := rfl

theorem summaryBytes_length (x : Summary) : x.bytes.length = 84 := by
  rw [summaryBytes_eq, List.length_flatten, summaryParts_lengths]
  rfl

theorem CarriedAt.summary {s : Summary} {k o : Nat} {x : List Byte} (hx : (summaryParts s)[k]? = some x)
    (ho : ([4, 4, 1, 1, 16, 2, 56].take k).sum = o) : CarriedAt s.bytes o x := by
  rw [summaryBytes_eq]
  exact .flatten hx (by rw [List.length_flatten, List.map_take, summaryParts_lengths, ho])

/-- The bytes of GET_HISTORY for `count` summaries from the one with number `first`. -/
def historyBytes (history : List Summary) (first count : Nat) : List Byte :=
  leBytes 1 history.length ++ ((history.drop first).take count).flatMap Summary.bytes

theorem historyBytes_length (history : List Summary) (first count : Nat) :
    (historyBytes history first count).length = 1 + 84 * min count (history.length - first) := by
  rw [historyBytes, List.length_append, leBytes_length, length_flatMap_const summaryBytes_length, List.length_take,
    List.length_drop]

theorem historyBytes_summary {history : List Summary} {first count k : Nat} {x : Summary} (hk : k < count)
    (hx : history[first + k]? = some x) : CarriedAt (historyBytes history first count) (1 + 84 * k) x.bytes := by
  refine (CarriedAt.flatMap (fun e _ => summaryBytes_length e) ?_).behind (leBytes_length ..)
  rw [List.getElem?_take_of_lt hk, List.getElem?_drop, hx]

end Sys2Proof.Machine

namespace Sys2Proof.Proofs
open Sys2Proof Sys2Proof.Machine

/-- Settles O24: each report is the list of its parts, and each value is read where its part's bytes stand. -/
theorem cameraAndFaultReports : Obligations.CameraAndFaultReports := by
  refine ⟨fun s t g b rest c hb h => ?_, fun s t g b rest hb h => ?_, fun s t g rest h => ?_⟩
  · have hexec : exec (.getCamera t g [b]) s = .next (s.answered t rest 0x14#8 g .ok
        (cameraBytes (s.cr.get c) (s.hu.gains.get c) (s.hu.relief.get c))) :=
      serve_of_reply h.asks (guards_of_eq (h.operational t) hb _)
    have hpart {k o : Nat} {x : List Byte}
        (hx : (cameraParts (s.cr.get c) (s.hu.gains.get c) (s.hu.relief.get c))[k]? = some x)
        (ho : ([20, 3, 3, 9, 3, 3, 3, 40].take k).sum = o) := CarriedAt.camera hx ho
    refine ⟨_, hexec, cameraBytes_length .., fun x hx => ?_, fun hnone => ?_, (hpart (k := 1) rfl rfl).take_drop rfl, ?_, ?_, ?_,
      ?_, (hpart (k := 6) rfl rfl).take_drop rfl, ?_⟩
    · have hdescriptor := (hpart (k := 0) rfl rfl).take_drop (descriptorPart_length _)
      rw [hx] at hdescriptor
      exact hdescriptor
    · have hdescriptor := (hpart (k := 0) rfl rfl).take_drop (descriptorPart_length _)
      rw [hnone] at hdescriptor
      exact hdescriptor
    · exact ((hpart (k := 2) rfl rfl).take_drop (receptionBytes_length _)).trans (receptionBytes_eq _)
    · exact ((hpart (k := 3) rfl rfl).take_drop (infoBytes_length _)).trans (infoBytes_eq _)
    · exact ((hpart (k := 4) rfl rfl).take_drop rfl).trans (optBytes_half _)
    · exact ((hpart (k := 5) rfl rfl).take_drop rfl).trans (optBytes_half _)
    · have hcounters := (hpart (k := 7) rfl rfl).take_drop (n := 40) rfl
      rwa [List.take_of_length_le (by rw [List.length_drop, cameraBytes_length]; rfl)] at hcounters
  · exact serve_of_refuse h.asks (guards_of_le (h.operational t) hb _)
  · have hexec : exec (.getFaults t g []) s = .next (s.answered t rest 0x38#8 g .ok (faultBytes s.fu)) :=
      serve_ready (reqGetFaults []) t h rfl rfl
    have hpart {k o : Nat} {x : List Byte} (hx : (faultParts s.fu)[k]? = some x)
        (ho : ([10, 14, 20, 1, 4].take k).sum = o) := CarriedAt.fault hx ho
    have hword (p : PerFault Bool) : stickyWord p < 256 ^ 2 := (stickyWord_lt p).trans (by decide)
    refine ⟨_, hexec, faultBytes_length _, fun c k => ?_, fun k => ?_, fun hnone => ?_, fun x hx => ?_, fun k => ?_,
      fun c => ?_, ?_⟩
    · have hsticky := (hpart (k := 0) (o := 0) rfl rfl).trans (stickyBytes_cam s.fu c)
      rw [Nat.zero_add] at hsticky
      rw [hsticky.field (hword _)]
      exact stickyWord_testBit ..
    · have hsticky := (hpart (k := 0) (o := 0) rfl rfl).trans (stickyBytes_out s.fu)
      rw [Nat.zero_add] at hsticky
      rw [hsticky.field (hword _)]
      exact stickyWord_testBit ..
    · have hfirst := (hpart (k := 1) rfl rfl).take_drop (firstFaultBytes_length _)
      rw [hnone] at hfirst
      exact hfirst
    · have hfirst := (hpart (k := 1) rfl rfl).take_drop (firstFaultBytes_length _)
      rw [hx] at hfirst
      exact hfirst.trans (firstFaultBytes_some x)
    · exact ((hpart (k := 2) rfl rfl).trans (faultPolicyBytes_carried s.fu.policy k)).take_drop rfl
    · rw [(hpart (k := 3) (o := 44) rfl rfl).field ((cameraBits_lt _).trans (by decide))]
      exact cameraBits_testBit _ c
    · have hframe := (hpart (k := 4) rfl rfl).take_drop (n := 4) rfl
      rwa [List.take_of_length_le (by rw [List.length_drop, faultBytes_length]; rfl)] at hframe

/-- Settles O25: the guards of each request, and each value where its piece's bytes stand. -/
theorem nodesAndHistoryReports : Obligations.NodesAndHistoryReports := by
  refine ⟨fun s t g b n rest first hfirst h => ⟨fun hbad => ?_, fun v hv hlo hhi hend => ?_⟩,
    fun s t g first count rest h => ⟨fun hbad => ?_, fun hfirst hlo hhi => ?_⟩⟩
  · exact serve_of_refuse h.asks (reqReadNodes_of_out_of_range (h.operational t) hfirst hbad)
  · have hop := h.operational t
    refine ⟨fun hx => serve_of_refuse h.asks (reqReadNodes_of_unreadable hop hfirst ⟨hlo, hhi, hend⟩ hv hx),
      fun hne hnc => ⟨_, serve_of_reply h.asks (reqReadNodes_of_readable hop hfirst ⟨hlo, hhi, hend⟩ hv hne hnc), ?_,
        fun k hk => ?_⟩⟩
    · rw [length_flatMap_const fun e => nodeReply_length _ (first + e), List.length_range]
    · have hnode := CarriedAt.flatMap (g := fun k => nodeReply (s.vs.slots.get v).nodes (first + k))
        (fun e _ => nodeReply_length _ (first + e)) (List.getElem?_range hk)
      exact (hnode.take_drop (nodeReply_length ..)).trans (nodeReply_eq ..)
  · refine serve_of_refuse h.asks ((whenReady_of_operational (h.operational t) _).trans
      ((whenLength_of_length _ rfl _).trans (if_neg ?_)))
    simp only [field_one_eq_getD]
    exact hbad
  · have hbody : reqGetHistory [first, count] (s.taken t rest) =
        .reply (s.taken t rest) .ok (historyBytes s.nq.history first.toNat count.toNat) := by
      refine (whenReady_of_operational (h.operational t) _).trans ((whenLength_of_length _ rfl _).trans ?_)
      simp only [field_one_eq_getD]
      exact if_pos ⟨hfirst, hlo, hhi⟩
    refine ⟨_, serve_of_reply h.asks hbody, historyBytes_length .., rfl, fun k x hk hx => ?_⟩
    have hsummary := historyBytes_summary hk hx
    intro part
    have hpart {i o : Nat} {y : List Byte} (hy : (summaryParts x)[i]? = some y)
        (ho : ([4, 4, 1, 1, 16, 2, 56].take i).sum = o) : part o y.length = y :=
      (hsummary.trans (.summary hy ho)).take_drop rfl
    refine ⟨hpart (i := 0) rfl rfl, hpart (i := 1) rfl rfl, fun v hv => ?_, fun hv => ?_, hpart (i := 3) rfl rfl,
      fun j => ?_, hpart (i := 5) rfl rfl, fun c => ?_⟩
    · have hview := hpart (i := 2) rfl rfl
      rw [hv] at hview
      exact hview
    · have hview := hpart (i := 2) rfl rfl
      rw [hv] at hview
      exact hview
    · exact (hsummary.trans ((CarriedAt.summary (k := 4) (o := 10) rfl rfl).trans
        (.quad (leBytes_length 4) x.seamCounts j))).take_drop (leBytes_length ..)
    · intro y
      have hcam {i o p n : Nat} {z : List Byte} (hz : (camSummaryParts y)[i]? = some z)
          (ho : ([1, 1, 2, 4, 4, 2].take i).sum = o) (hp : 28 + (14 * c.val + o) = p) (hn : z.length = n) : part p n = z := by
        subst hp
        exact (hsummary.trans ((CarriedAt.summary (k := 6) (o := 28) rfl rfl).trans
          ((CarriedAt.quad camSummaryBytes_length x.cams c).trans (.camSummary hz ho)))).take_drop hn
      refine ⟨(hcam (i := 0) rfl rfl (by simp) rfl).trans (congrArg (leBytes 1) ?_), hcam (i := 1) rfl rfl (by simp; omega) rfl,
        hcam (i := 2) rfl rfl (by simp; omega) rfl, hcam (i := 3) rfl rfl (by simp; omega) rfl,
        hcam (i := 4) rfl rfl (by simp; omega) rfl, hcam (i := 5) rfl rfl (by simp; omega) rfl⟩
      cases y.disposition <;> rfl

/-- Settles O45: camera by camera, through the seven bytes of its part. -/
theorem nodeRecordRoundTrip : Obligations.NodeRecordRoundTrip :=
  fun x h => ⟨nodeRecordBytes_length x, nodeRecordOf_bytes h⟩

end Sys2Proof.Proofs
end

section
set_option deprecated.oldSectionVars true -- proofs in sequence: their tasks would not fit the thread limit
/-! Requests that set something: SET_TIMING, SET_ZONE, SET_BODY, SET_FILL, SET_HARMONISE and SET_GAIN (R45, R46, R47, R114,
R142, R143). -/
namespace Sys2Proof.Machine

/-! ### Bytes that carry one of two values -/

theorem flagOf_of_le {n : Nat} (h : n ≤ 1) : flagOf n = some (decide (n = 1)) := by
  interval_cases n <;> rfl

theorem flagOf_of_lt {n : Nat} (h : 1 < n) : flagOf n = none := by
  unfold flagOf
  rw [if_neg (by omega), if_neg (by omega)]

theorem byte_eq_one_iff (b : Byte) : b.toNat = 1 ↔ b = 1#8 := by
  rw [← BitVec.toNat_inj]
  rfl

theorem flagOf_byte {b : Byte} (h : b.toNat ≤ 1) : flagOf b.toNat = some (decide (b = 1#8)) :=
  (flagOf_of_le h).trans (congrArg some (decide_eq_decide.mpr (byte_eq_one_iff b)))

/-- A byte that carries one of two values is the byte of its value. -/
theorem flagByte_of_le {b : Byte} (h : b.toNat ≤ 1) : flagByte (decide (b = 1#8)) = b := by
  by_cases hb : b = 1#8
  · rw [hb]
    rfl
  · have hzero : b = 0#8 := by
      rw [← byte_eq_one_iff] at hb
      exact BitVec.eq_of_toNat_eq (by change b.toNat = 0; omega)
    rw [hzero]
    rfl

/-! ### SET_ZONE -/

section
variable {en i0 i1 j0 j1 cond sense : Byte}

/-- A zone is carried exactly by fields in their ranges. -/
theorem zoneOf_bytes {k : Fin 4} (hen : en.toNat ≤ 1) (hi : i0.toNat ≤ i1.toNat ∧ i1.toNat ≤ 44)
    (hj : j0.toNat ≤ j1.toNat ∧ j1.toNat ≤ 59) (hcond : cond.toNat = k.val) (hsense : sense.toNat ≤ 1) :
    zoneOf en.toNat i0.toNat i1.toNat j0.toNat j1.toNat cond.toNat sense.toNat =
      some ⟨decide (en = 1#8), i0.toNat, i1.toNat, j0.toNat, j1.toNat, k, decide (sense = 1#8)⟩ := by
  unfold zoneOf
  rw [flagOf_byte hen, indexOf_some.mpr hcond, flagOf_byte hsense]
  exact if_pos ⟨hi.1, Nat.lt_succ_of_le hi.2, hj.1, Nat.lt_succ_of_le hj.2⟩

theorem zoneOf_eq_none {en i0 i1 j0 j1 cond sense : Nat}
    (h : ¬ (en ≤ 1 ∧ i0 ≤ i1 ∧ i1 ≤ 44 ∧ j0 ≤ j1 ∧ j1 ≤ 59 ∧ cond < 4 ∧ sense ≤ 1)) :
    zoneOf en i0 i1 j0 j1 cond sense = none := by
  unfold zoneOf
  split
  next e k w he hk hw =>
    have hen : en ≤ 1 := Nat.not_lt.mp fun hen => nomatch (flagOf_of_lt hen).symm.trans he
    have hsense : sense ≤ 1 := Nat.not_lt.mp fun hs => nomatch (flagOf_of_lt hs).symm.trans hw
    have hcond : cond < 4 := by
      rw [indexOf_some] at hk
      omega
    refine if_neg fun ⟨hi, hi1, hj, hj1⟩ => h ⟨hen, hi, Nat.le_of_lt_succ hi1, hj, Nat.le_of_lt_succ hj1, hcond, hsense⟩
  next => rfl

end

/-! ### SET_HARMONISE -/


/-- The payload of SET_HARMONISE (R174). -/
def harmonisePayload (mode step : Byte) (gmin gmax nmin : Nat) (relief : Byte) : List Byte :=
  mode :: step :: (leBytes 2 gmin ++ leBytes 2 gmax ++ leBytes 2 nmin ++ [relief])

section
variable {mode step relief : Byte} {gmin gmax nmin : Nat} (hmin : gmin < 65536) (hmax : gmax < 65536) (hn : nmin < 65536)

theorem harmonisePayload_mode : field (harmonisePayload mode step gmin gmax nmin relief) 0 1 = mode.toNat := field_one ..

theorem harmonisePayload_step : field (harmonisePayload mode step gmin gmax nmin relief) 1 1 = step.toNat :=
  field_one_eq_getD _ 1

theorem harmonisePayload_relief : field (harmonisePayload mode step gmin gmax nmin relief) 8 1 = relief.toNat :=
  field_one_eq_getD _ 8

include hmin in
theorem harmonisePayload_gmin : field (harmonisePayload mode step gmin gmax nmin relief) 2 2 = gmin :=
  leNat_leBytes (n := 2) hmin

include hmax in
theorem harmonisePayload_gmax : field (harmonisePayload mode step gmin gmax nmin relief) 4 2 = gmax :=
  leNat_leBytes (n := 2) hmax

include hn in
theorem harmonisePayload_nmin : field (harmonisePayload mode step gmin gmax nmin relief) 6 2 = nmin :=
  leNat_leBytes (n := 2) hn

include hmin hmax hn in
theorem harmSettingsOf_of_passes (hmode : mode.toNat ≤ 1) (hrelief : relief.toNat ≤ 1)
    (hg : 64 ≤ gmin ∧ gmin ≤ 1023 ∧ 64 ≤ gmax ∧ gmax ≤ 1023 ∧ gmin ≤ gmax) :
    harmSettingsOf (harmonisePayload mode step gmin gmax nmin relief) =
      some ⟨decide (mode = 1#8), max 1 (min step.toNat 32), gmin, gmax, max 64 nmin, decide (relief = 1#8)⟩ := by
  unfold harmSettingsOf
  rw [harmonisePayload_mode, harmonisePayload_relief, flagOf_byte hmode, flagOf_byte hrelief]
  simp only [harmonisePayload_gmin hmin, harmonisePayload_gmax hmax, harmonisePayload_nmin hn, harmonisePayload_step,
    clampNat_eq (show 1 ≤ 32 by omega), clampNat_eq (show 64 ≤ 65535 by omega)]
  rw [if_pos hg, min_eq_left (Nat.le_of_lt_succ hn)]

include hmin hmax in
theorem harmSettingsOf_of_not_passes
    (h : ¬ (mode.toNat ≤ 1 ∧ relief.toNat ≤ 1 ∧ (64 ≤ gmin ∧ gmin ≤ 1023) ∧ (64 ≤ gmax ∧ gmax ≤ 1023) ∧ gmin ≤ gmax)) :
    harmSettingsOf (harmonisePayload mode step gmin gmax nmin relief) = none := by
  unfold harmSettingsOf
  rw [harmonisePayload_mode, harmonisePayload_relief]
  split
  next a b ha hb =>
    have hmode : mode.toNat ≤ 1 := Nat.not_lt.mp fun hlt => nomatch (flagOf_of_lt hlt).symm.trans ha
    have hrelief : relief.toNat ≤ 1 := Nat.not_lt.mp fun hlt => nomatch (flagOf_of_lt hlt).symm.trans hb
    simp only [harmonisePayload_gmin hmin, harmonisePayload_gmax hmax]
    exact if_neg fun ⟨h1, h2, h3, h4, h5⟩ => h ⟨hmode, hrelief, ⟨h1, h2⟩, ⟨h3, h4⟩, h5⟩
  next => rfl

include hn in
theorem harmAdjusted_eq :
    harmAdjusted (harmonisePayload mode step gmin gmax nmin relief) =
      !decide (1 ≤ step.toNat ∧ step.toNat ≤ 32 ∧ 64 ≤ nmin) := by
  rw [harmAdjusted, harmonisePayload_step, harmonisePayload_nmin hn, clampNat_eq (by omega), clampNat_eq (by omega),
    Bool.eq_iff_iff]
  simp only [Bool.or_eq_true, bne_iff_ne, Bool.not_eq_true', decide_eq_false_iff_not]
  omega

end

end Sys2Proof.Machine

namespace Sys2Proof.Proofs
open Sys2Proof Sys2Proof.Machine

/-- Settles O28: both fields are read back, and a clamped value is the value itself exactly where it is in range. -/
theorem setTiming : Obligations.SetTiming := by
  intro s t g rest period age hperiod hage h
  have hfields : field (leBytes 4 period ++ leBytes 4 age) 0 4 = period ∧ field (leBytes 4 period ++ leBytes 4 age) 4 4 = age :=
    ⟨leNat_leBytes (n := 4) hperiod, leNat_leBytes (n := 4) hage⟩
  refine (serve_ready (reqSetTiming _) t h rfl rfl).trans ?_
  simp only [hfields.1, hfields.2, clampNat_eq (show 31488 ≤ 100000 by omega), clampNat_eq (show 10000 ≤ 200000 by omega)]
  have hstatus : (max 31488 (min period 100000) = period ∧ max 10000 (min age 200000) = age) ↔
      31488 ≤ period ∧ period ≤ 100000 ∧ 10000 ≤ age ∧ age ≤ 200000 := by omega
  simp only [hstatus]
  rfl

/-- Settles O44: the fields of the zone are the payload's bytes, in range or not. -/
theorem zoneBodyAndFill : Obligations.ZoneBodyAndFill := by
  refine ⟨?_, fun s t g b rest h => ⟨fun hb => ?_, fun hb => ?_⟩, fun s t g y cb cr rest h => serve_ready (reqSetFill _) t h rfl rfl⟩
  · intro s t g bc bz en i0 i1 j0 j1 cond sense rest p h inRange
    have hexec : exec (.setZone t g p) s = .next ((withIndex (s.taken t rest) bc.toNat fun c =>
        withIndex (s.taken t rest) bz.toNat fun z =>
          match zoneOf en.toNat i0.toNat i1.toNat j0.toNat j1.toNat cond.toNat sense.toNat with
          | some x => accept ((s.taken t rest).setVs { s.vs with zones := s.vs.zones.set c ((s.vs.zones.get c).set z x) })
          | none => refuse (s.taken t rest) .badValue).finish 0x28#8 g) := by
      refine (serve_ready (reqSetZone p) t h rfl rfl).trans ?_
      simp only [p, field_one_eq_getD]
      rfl
    rw [hexec]
    refine ⟨fun hbad => ?_, fun c z k hin hc hz hk => ?_⟩
    · have hrefuse : (withIndex (s.taken t rest) bc.toNat fun c => withIndex (s.taken t rest) bz.toNat fun z =>
          match zoneOf en.toNat i0.toNat i1.toNat j0.toNat j1.toNat cond.toNat sense.toNat with
          | some x => accept ((s.taken t rest).setVs { s.vs with zones := s.vs.zones.set c ((s.vs.zones.get c).set z x) })
          | none => refuse (s.taken t rest) .badValue) = refuse (s.taken t rest) .badValue := by
        rcases Nat.lt_or_ge bc.toNat 4 with hc | hc
        · rw [withIndex_of_eq _ (i := ⟨bc.toNat, hc⟩) rfl]
          rcases Nat.lt_or_ge bz.toNat 4 with hz | hz
          · rw [withIndex_of_eq _ (i := ⟨bz.toNat, hz⟩) rfl, zoneOf_eq_none fun hzone => hbad ⟨hc, hz, hzone⟩]
          · rw [withIndex_of_le _ hz]
        · rw [withIndex_of_le _ hc]
      rw [hrefuse]
      rfl
    · obtain ⟨-, -, hen, hi0, hi1, hj0, hj1, -, hsense⟩ := hin
      rw [withIndex_of_eq _ hc, withIndex_of_eq _ hz, zoneOf_bytes hen ⟨hi0, hi1⟩ ⟨hj0, hj1⟩ hk hsense]
      rfl
  · refine (serve_ready (reqSetBody _) t h rfl rfl).trans ?_
    rw [field_one, if_pos hb]
    rfl
  · refine (serve_ready (reqSetBody _) t h rfl rfl).trans ?_
    rw [field_one, if_neg (Nat.not_le.mpr hb)]
    rfl

/-- Settles O46: the payload's fields are read back; each clamp is a maximum of a minimum. -/
theorem setHarmoniseAndGain : Obligations.SetHarmoniseAndGain := by
  constructor
  · intro s t g mode step relief rest gmin gmax nmin hmin hmax hn p h passes held step' nmin'
    refine ⟨fun hbad => (serve_ready (reqSetHarmonise p) t h rfl rfl).trans ?_, fun hpass => (serve_ready (reqSetHarmonise p) t h rfl rfl).trans ?_⟩
    · rw [show harmSettingsOf p = none from harmSettingsOf_of_not_passes hmin hmax hbad]
      rfl
    · obtain ⟨hmode, hrelief, ⟨h1, h2⟩, ⟨h3, h4⟩, h5⟩ := hpass
      rw [show harmSettingsOf p = _ from harmSettingsOf_of_passes hmin hmax hn hmode hrelief ⟨h1, h2, h3, h4, h5⟩,
        show harmAdjusted p = _ from harmAdjusted_eq hn]
      have hstatus (q : Prop) [Decidable q] :
          (if (!decide q) = true then Status.adjusted else Status.ok) = if q then .ok else .adjusted := by
        by_cases hq : q <;> simp [hq]
      have hheld : (s.hu.gains.map fun x => clampNat x gmin gmax) = held :=
        congrArg s.hu.gains.map (funext fun x => clampNat_eq h5)
      have hbytes (x : HarmSettings) : x.bytes ++ gainBytes held = flagByte x.auto :: leBytes 1 x.stepLimit ++
          leBytes 2 x.gmin ++ leBytes 2 x.gmax ++ leBytes 2 x.nmin ++ [flagByte x.relief] ++ leBytes 2 held.c0 ++
          leBytes 2 held.c1 ++ leBytes 2 held.c2 ++ leBytes 2 held.c3 := by
        simp [HarmSettings.bytes, gainBytes, Quad.toList]
      simp only [HU.configure, show (s.taken t rest).hu = s.hu from rfl, hstatus, hheld, hbytes, flagByte_of_le hmode, flagByte_of_le hrelief]
      rfl
  · intro s t g b rest gain hgain h horder
    have hfields : field (b :: leBytes 2 gain) 0 1 = b.toNat ∧ field (b :: leBytes 2 gain) 1 2 = gain :=
      ⟨field_one .., leNat_leBytes (n := 2) hgain⟩
    refine ⟨fun hb => ?_, fun c hc => ?_⟩
    · refine (serve_ready (reqSetGain _) t h rfl rfl).trans ?_
      rw [hfields.1, withIndex_of_le _ hb]
      rfl
    · intro held
      have hheld : clampNat gain s.hu.settings.gmin s.hu.settings.gmax = held := clampNat_eq horder
      have hstatus : held = gain ↔ s.hu.settings.gmin ≤ gain ∧ gain ≤ s.hu.settings.gmax := by omega
      refine (serve_ready (reqSetGain _) t h rfl rfl).trans ?_
      rw [hfields.1, withIndex_of_eq _ hc]
      simp only [hfields.2, show (s.taken t rest).hu = s.hu from rfl, hheld, hstatus]
      rfl

end Sys2Proof.Proofs
end

section
set_option deprecated.oldSectionVars true -- proofs in sequence: their tasks would not fit the thread limit
/-! Requests on faults and notices (R150, R155, R159, R162, R163), and the validation scan (R35, R37, R38). -/
namespace Sys2Proof.Machine

/-! ### CLEAR_FAULTS -/

theorem faultBytes_take (f : FU) : (faultBytes f).take 24 = stickyBytes f ++ firstFaultBytes f.first := by
  have hlength : (stickyBytes f ++ firstFaultBytes f.first).length = 24 := by
    rw [List.length_append, stickyBytes_length, firstFaultBytes_length]
  have hsplit : faultBytes f = (stickyBytes f ++ firstFaultBytes f.first) ++
      (faultPolicyBytes f.policy ++ leBytes 1 (cameraBits f.withheld) ++ leBytes 4 f.withheldFrame.toNat) := by
    simp [faultBytes]
  rw [hsplit, List.take_left' hlength]

/-! ### SET_FAULT_POLICY -/

theorem faultKindOf_code (k : FaultKind) : faultKindOf k.code = some k := by cases k <;> rfl

theorem FaultKind.code_mem (k : FaultKind) : 1 ≤ k.code ∧ k.code ≤ 10 := by cases k <;> decide

theorem FaultKind.code_injective {j k : FaultKind} (h : j.code = k.code) : j = k :=
  Option.some.inj ((faultKindOf_code j).symm.trans ((congrArg faultKindOf h).trans (faultKindOf_code k)))

/-- The codes 1 to 10 name the ten kinds. -/
theorem faultKindOf_of_mem {n : Nat} (h : 1 ≤ n ∧ n ≤ 10) : ∃ k, faultKindOf n = some k ∧ k.code = n := by
  obtain ⟨hlo, hhi⟩ := h
  interval_cases n <;> exact ⟨_, rfl, rfl⟩

theorem faultKindOf_some {n : Nat} {k : FaultKind} (h : faultKindOf n = some k) : k.code = n := by
  have hcode := List.find?_some h
  exact beq_iff_eq.mp hcode

theorem FaultKind.fixedSeverity_iff (k : FaultKind) : k.fixedSeverity = true ↔ k.code = 8 ∨ k.code = 9 ∨ k.code = 10 := by
  cases k <;> decide

/-! ### SET_NOTICE_POLICY -/

theorem noticePolicyOf_bytes {m p : Byte} {i : Fin 4} (hm : m.toNat ≤ 1) (hp : p.toNat = i.val) :
    noticePolicyOf m.toNat p.toNat = some ⟨decide (m = 1#8), i⟩ := by
  unfold noticePolicyOf
  rw [flagOf_byte hm, indexOf_some.mpr hp]

theorem noticePolicyOf_some {m p : Nat} {x : NoticePolicy} (h : noticePolicyOf m p = some x) : m ≤ 1 ∧ p < 4 := by
  unfold noticePolicyOf at h
  split at h
  next a b ha hb =>
    rw [indexOf_some] at hb
    exact ⟨Nat.not_lt.mp fun hlt => (nomatch (flagOf_of_lt hlt).symm.trans ha), by omega⟩
  next => cases h

/-- The policies are carried exactly where each kind's two bytes carry one. -/
theorem noticePoliciesOf_eq_some_iff {p : List Byte} {pol : PerNotice NoticePolicy} :
    noticePoliciesOf p = some pol ↔
      ∀ k : NoticeKind,
        noticePolicyOf (field p (2 * (k.code - 1)) 1) (field p (2 * (k.code - 1) + 1) 1) = some (pol.get k) := by
  unfold noticePoliciesOf
  constructor
  · intro h
    dsimp only at h
    split at h
    next h0 h1 h2 h3 h4 h5 h6 h7 h8 =>
      cases h
      intro k
      cases k
      exacts [h0, h1, h2, h3, h4, h5, h6, h7, h8]
    next => cases h
  · intro h
    dsimp only
    split
    next h0 h1 h2 h3 h4 h5 h6 h7 h8 =>
      have hpol : PerNotice.get ⟨_, _, _, _, _, _, _, _, _⟩ = pol.get := funext fun k => by
        cases k
        exacts [Option.some.inj (h0.symm.trans (h .qualified)), Option.some.inj (h1.symm.trans (h .holdoverEntered)),
          Option.some.inj (h2.symm.trans (h .qualificationLost)), Option.some.inj (h3.symm.trans (h .stale)),
          Option.some.inj (h4.symm.trans (h .fault)), Option.some.inj (h5.symm.trans (h .viewTaken)),
          Option.some.inj (h6.symm.trans (h .outputStopped)), Option.some.inj (h7.symm.trans (h .memoryReady)),
          Option.some.inj (h8.symm.trans (h .memoryFault))]
      exact congrArg (fun f => some (PerNotice.ofFn f)) hpol
    next hnone =>
      exact (hnone _ _ _ _ _ _ _ _ _ (h .qualified) (h .holdoverEntered) (h .qualificationLost) (h .stale) (h .fault)
        (h .viewTaken) (h .outputStopped) (h .memoryReady) (h .memoryFault)).elim

/-- The payload of SET_NOTICE_POLICY (R174). -/
def policyPayload (kinds : NoticeKind → Byte × Byte) (th pol : Byte) : List Byte :=
  (noticeKinds.flatMap fun k => [(kinds k).1, (kinds k).2]) ++ [th, pol]

section
variable {kinds : NoticeKind → Byte × Byte} {th pol : Byte}

theorem policyPayload_kind (k : NoticeKind) :
    field (policyPayload kinds th pol) (2 * (k.code - 1)) 1 = (kinds k).1.toNat ∧
      field (policyPayload kinds th pol) (2 * (k.code - 1) + 1) 1 = (kinds k).2.toNat := by
  rw [field_one_eq_getD, field_one_eq_getD]
  cases k <;> exact ⟨rfl, rfl⟩

theorem policyPayload_threshold : field (policyPayload kinds th pol) 18 1 = th.toNat := field_one_eq_getD _ 18

theorem policyPayload_polarity : field (policyPayload kinds th pol) 19 1 = pol.toNat := field_one_eq_getD _ 19

/-- The policies that a payload in range carries. -/
def carriedPolicies (kinds : NoticeKind → Byte × Byte) : PerNotice NoticePolicy :=
  .ofFn fun k => ⟨decide ((kinds k).1 = 1#8), Fin.ofNat 4 (kinds k).2.toNat⟩

theorem carriedPolicies_get (k : NoticeKind) :
    (carriedPolicies kinds).get k = ⟨decide ((kinds k).1 = 1#8), Fin.ofNat 4 (kinds k).2.toNat⟩ := by cases k <;> rfl

theorem noticePoliciesOf_of_passes (h : ∀ k, (kinds k).1.toNat ≤ 1 ∧ (kinds k).2.toNat < 4) :
    noticePoliciesOf (policyPayload kinds th pol) = some (carriedPolicies kinds) := by
  rw [noticePoliciesOf_eq_some_iff]
  intro k
  obtain ⟨hm, hp⟩ := h k
  rw [(policyPayload_kind k).1, (policyPayload_kind k).2, carriedPolicies_get]
  exact noticePolicyOf_bytes hm (Nat.mod_eq_of_lt hp).symm

theorem passes_of_noticePoliciesOf {x : PerNotice NoticePolicy}
    (h : noticePoliciesOf (policyPayload kinds th pol) = some x) (k : NoticeKind) :
    (kinds k).1.toNat ≤ 1 ∧ (kinds k).2.toNat < 4 := by
  have hk := noticePoliciesOf_eq_some_iff.mp h k
  rw [(policyPayload_kind k).1, (policyPayload_kind k).2] at hk
  exact noticePolicyOf_some hk

/-- The reply repeats the payload. -/
theorem noticePolicyBytes_of_passes {q : NQ} {i : Fin 4} (h : ∀ k, (kinds k).1.toNat ≤ 1 ∧ (kinds k).2.toNat < 4)
    (hq : q.policy = carriedPolicies kinds) (hi : q.threshold = i) (hth : th.toNat = i.val) (hpol : pol.toNat ≤ 1)
    (hhigh : q.activeHigh = decide (pol = 1#8)) : noticePolicyBytes q = policyPayload kinds th pol := by
  have hbyte {b : Byte} {n : Nat} (hb : b.toNat = n) : BitVec.ofNat 8 n = b := by rw [← hb, BitVec.ofNat_toNat, BitVec.setWidth_eq]
  have hkind (k : NoticeKind) : [flagByte (q.policy.get k).masked, BitVec.ofNat 8 (q.policy.get k).priority.val] =
      [(kinds k).1, (kinds k).2] := by
    obtain ⟨hm, hp⟩ := h k
    rw [hq, carriedPolicies_get]
    exact congrArg₂ (fun a b => [a, b]) (flagByte_of_le hm) (hbyte (Nat.mod_eq_of_lt hp).symm)
  have hlast : leBytes 1 q.threshold.val ++ [flagByte q.activeHigh] = [th, pol] := by
    rw [hi, hhigh, flagByte_of_le hpol]
    exact congrArg (fun b => [b, pol]) (hbyte hth)
  simp only [noticePolicyBytes, hkind, policyPayload, List.append_assoc, hlast]

end

/-! ### The validation scan -/

/-- A record carries the camera's coordinate. -/
def hasCoord (nodes : List (Nat × NodeRecord)) (c : Camera) (n : Nat) : Bool :=
  ((keyGet nodes n).bind fun r => (r.get c).coord).isSome

/-- An unwritten node carries no coordinate. -/
theorem nodeAt_coord (nodes : List (Nat × NodeRecord)) (c : Camera) (n : Nat) :
    ((nodeAt nodes n).get c).coord = (keyGet nodes n).bind fun r => (r.get c).coord := by
  unfold nodeAt blankNode
  cases keyGet nodes n with
  | none => simp
  | some r => rfl

theorem cornerCoords_isSome (ns : Quad NodeRecord) (c : Camera) :
    (cornerCoords ns c).isSome = ((ns.c0.get c).coord.isSome && (ns.c1.get c).coord.isSome &&
      (ns.c2.get c).coord.isSome && (ns.c3.get c).coord.isSome) := by
  unfold cornerCoords
  cases (ns.c0.get c).coord with
  | none => rfl
  | some a =>
    cases (ns.c1.get c).coord with
    | none => rfl
    | some b =>
      cases (ns.c2.get c).coord with
      | none => rfl
      | some d => cases (ns.c3.get c).coord <;> rfl

/-- A cell is covered where its four corners carry the camera's coordinate (R37). -/
theorem cellCovered_eq (nodes : List (Nat × NodeRecord)) (c : Camera) (i j : Nat) :
    cellCovered nodes c i j = (hasCoord nodes c (46 * j + i) && hasCoord nodes c (46 * j + i + 1) &&
      hasCoord nodes c (46 * j + i + 46) && hasCoord nodes c (46 * j + i + 47)) := by
  rw [cellCovered, cornerCoords_isSome]
  simp only [Quad.map, cornerIndices, nodeAt_coord, hasCoord, Config.nodeColumns, Nat.mul_comm j 46]

theorem filter_isNone_eq_nil {nodes : List (Nat × NodeRecord)} {m : Nat}
    (h : ∀ n < m, (keyGet nodes n).isSome = true) :
    ((List.range m).filter fun i => (keyGet nodes i).isNone) = [] := by
  refine List.filter_eq_nil_iff.mpr fun n hn => ?_
  rw [← Option.not_isSome, h n (List.mem_range.mp hn)]
  nofun

theorem unwritten_eq_nil {nodes : List (Nat × NodeRecord)} (h : ∀ n < 2806, (keyGet nodes n).isSome = true) :
    unwritten nodes = [] :=
  filter_isNone_eq_nil h

/-- The first of the unwritten nodes, and their number (R38). -/
theorem unwritten_of_lowest {nodes : List (Nat × NodeRecord)} {low : Nat} (hlow : low < 2806)
    (hnone : keyGet nodes low = none) (hbelow : ∀ n < low, (keyGet nodes n).isSome = true) :
    ∃ rest, unwritten nodes = low :: rest ∧
      rest.length + 1 = (List.range 2806).countP fun n => (keyGet nodes n).isNone := by
  have hsplit : List.range Config.nodeCount =
      List.range low ++ low :: (List.range (2805 - low)).map fun i => low + (i + 1) := by
    have hcount : Config.nodeCount = low + (2805 - low + 1) := by simp only [Config.nodeCount]; omega
    rw [hcount, List.range_add, List.range_succ_eq_map, List.map_cons, List.map_map]
    rfl
  have hunwritten : unwritten nodes =
      low :: ((List.range (2805 - low)).map fun i => low + (i + 1)).filter fun i => (keyGet nodes i).isNone := by
    rw [unwritten, hsplit, List.filter_append, filter_isNone_eq_nil hbelow, List.nil_append,
      List.filter_cons_of_pos (by rw [hnone]; rfl)]
  refine ⟨_, hunwritten, ?_⟩
  rw [List.countP_eq_length_filter]
  exact (congrArg List.length hunwritten).symm

theorem execScanComplete_of_written {s : State} {k : Closing} {t : Stamp} (hk : s.lc.closing = some k)
    (ht : t = k.start + 3000#32) (h : unwritten (s.vs.slots.get k.slot).nodes = []) :
    exec (.scanComplete t) s = .next
      { s with
        timebase := t
        vs := s.vs.setSlot k.slot ((s.vs.slots.get k.slot).enter .ready)
        lc := ({ s.lc with closing := none } : LC).placeExecutor 0x22#8 k.tag .ok
          (cameras.flatMap fun c => leBytes 2 (cellCount (s.vs.slots.get k.slot).nodes c)) } := by
  change execScanComplete t s = _
  unfold execScanComplete
  simp only [hk, if_pos (show t = k.start + Config.scanTime from ht), h]
  rfl

theorem execScanComplete_of_unwritten {s : State} {k : Closing} {t : Stamp} {i : Nat} {rest : List Nat}
    (hk : s.lc.closing = some k) (ht : t = k.start + 3000#32)
    (h : unwritten (s.vs.slots.get k.slot).nodes = i :: rest) :
    exec (.scanComplete t) s = .next
      { s with
        timebase := t
        vs := s.vs.setSlot k.slot ((s.vs.slots.get k.slot).enter .loading)
        lc := ({ s.lc with closing := none } : LC).placeExecutor 0x22#8 k.tag .badValue
          (leBytes 2 i ++ leBytes 2 (rest.length + 1)) } := by
  change execScanComplete t s = _
  unfold execScanComplete
  simp only [hk, if_pos (show t = k.start + Config.scanTime from ht), h]
  rfl

end Sys2Proof.Machine

namespace Sys2Proof.Proofs
open Sys2Proof Sys2Proof.Machine

/-- Settles O42: CLOSE_VIEW by the slot's state, and the scan by whether it finds an unwritten node. -/
theorem closeAndScanView : Obligations.CloseAndScanView := by
  refine ⟨fun s t g b rest h => ⟨fun hb => ?_, fun v hv => ⟨fun hne => ?_, fun hl => ?_⟩⟩, ?_⟩
  · exact serve_of_refuse h.asks (guards_of_le (h.operational t) hb _)
  · refine serve_of_refuse h.asks ((guards_of_eq (h.operational t) hv _).trans ?_)
    rw [State.taken_vs]
    cases hx : (s.vs.slots.get v).state with
    | loading => exact absurd hx hne
    | empty | closing | ready | pending | active => rfl
  · have hbody : reqCloseView t g [b] (s.taken t rest) =
        .later (((s.taken t rest).setVs (s.vs.setSlot v ((s.vs.slots.get v).enter .closing))).setLc
          { (s.taken t rest).lc with closing := some ⟨g, v, t⟩ }) := by
      refine (guards_of_eq (h.operational t) hv _).trans ?_
      rw [State.taken_vs, hl]
    refine (serve_taken h.asks).trans ?_
    rw [hbody]
    rfl
  · intro s t start g v hk ht nodes has whole cells scanned
    have hcells (c : Camera) : cellCount nodes c = cells c := by
      unfold cellCount
      simp only [cellCovered_eq]
      rfl
    refine ⟨fun hall => ?_, fun low hlow hnone hbelow => ?_⟩
    · rw [execScanComplete_of_written hk ht (unwritten_eq_nil hall), ← hcells, ← hcells, ← hcells, ← hcells]
      simp only [cameras, List.flatMap_cons, List.flatMap_nil, List.append_nil, ← List.append_assoc]
      rfl
    · obtain ⟨rest, hun, hlength⟩ := unwritten_of_lowest hlow hnone hbelow
      rw [execScanComplete_of_unwritten hk ht hun, hlength]
      rfl

/-- Settles O48: the payload's fields are read back, and a mark is kept unless both masks name it. -/
theorem faultRequests : Obligations.FaultRequests := by
  constructor
  · intro s t g src fst rest kinds hkinds p h
    have hfields : field p 0 1 = src.toNat ∧ field p 1 2 = kinds ∧ field p 3 1 = fst.toNat :=
      ⟨field_one .., leNat_leBytes (n := 2) hkinds, field_one_eq_getD _ 3⟩
    obtain ⟨hsrc, hkind, hfst⟩ := hfields
    refine ⟨fun hbad => ?_, fun h1 h2 h3 => ⟨s.fu.clear src.toNat kinds (decide (fst = 1#8)), ?_, rfl, rfl, rfl, ?_,
      fun c k => ?_, fun k => ?_⟩⟩
    · refine (serve_ready (reqClearFaults p) t h rfl rfl).trans ?_
      rw [hsrc, hkind, hfst]
      rcases Nat.lt_or_ge 1 fst.toNat with hlt | hle
      · rw [flagOf_of_lt hlt]
        rfl
      · rw [flagOf_of_le hle]
        exact congrArg (fun k => Host.Outcome.next (Served.finish 0x39#8 g k))
          (if_neg fun ⟨h1, h2⟩ => hbad ⟨h1, h2, hle⟩)
    · refine (serve_ready (reqClearFaults p) t h rfl rfl).trans ?_
      rw [hsrc, hkind, hfst, flagOf_byte h3, faultBytes_take]
      exact congrArg (fun k => Host.Outcome.next (Served.finish 0x39#8 g k)) (if_pos ⟨h1, h2⟩)
    · by_cases hf : fst = 1#8 <;> simp [FU.clear, hf]
    · simp [FU.clear]
    · simp [FU.clear]
  · intro s t g kind mask sev rest h fixed passes
    refine ⟨fun hbad => ?_, fun hpass => ?_⟩
    · refine (serve_ready (reqSetFaultPolicy _) t h rfl rfl).trans ?_
      simp only [field_one_eq_getD, List.getD_cons_zero, List.getD_cons_succ]
      split
      next k m c hk hm hc =>
        have hmask : mask.toNat ≤ 1 := Nat.not_lt.mp fun hlt => nomatch (flagOf_of_lt hlt).symm.trans hm
        have hsev : sev.toNat ≤ 1 := Nat.not_lt.mp fun hlt => nomatch (flagOf_of_lt hlt).symm.trans hc
        have hcode := faultKindOf_some hk
        rw [flagOf_byte hsev, Option.some.injEq] at hc
        rw [if_pos]
        · rfl
        · by_contra hnot
          refine hbad ⟨hcode ▸ k.code_mem, hmask, hsev, fun ⟨hone, hfix⟩ => hnot ?_⟩
          rw [Bool.and_eq_true, FaultKind.fixedSeverity_iff, hcode, ← hc]
          exact ⟨decide_eq_true hone, hfix⟩
      next => rfl
    · obtain ⟨hk, hm, hs, hfix⟩ := hpass
      obtain ⟨k, hkind, hcode⟩ := faultKindOf_of_mem hk
      refine ⟨s.fu.policy.set k ⟨decide (mask = 1#8), decide (sev = 1#8)⟩, ?_, fun j => ?_⟩
      · refine (serve_ready (reqSetFaultPolicy _) t h rfl rfl).trans ?_
        simp only [field_one_eq_getD, List.getD_cons_zero, List.getD_cons_succ, hkind, flagOf_byte hm, flagOf_byte hs,
          flagByte_of_le hm, flagByte_of_le hs]
        rw [if_neg]
        · rfl
        · rw [Bool.and_eq_true, decide_eq_true_eq, FaultKind.fixedSeverity_iff, hcode]
          exact hfix
      · rw [PerFault.get_set, ← hcode]
        exact if_congr ⟨fun h => congrArg _ h, FaultKind.code_injective⟩ rfl rfl

/-- Settles O50: the first records leave the queue; the policy is read back from the payload. -/
theorem noticeRequests : Obligations.NoticeRequests := by
  refine ⟨fun s t g n rest h => ⟨fun hbad => ?_, fun hlo hhi => ?_⟩, ?_, fun q hq => ?_⟩
  · refine (serve_ready (reqFetchNotices _) t h rfl rfl).trans ?_
    rw [field_one, if_neg hbad]
    rfl
  · refine (serve_ready (reqFetchNotices _) t h rfl rfl).trans ?_
    rw [field_one, if_pos ⟨hlo, hhi⟩, ← flagByte_eq_leBytes, ← List.length_take, ← List.length_drop]
    rfl
  · intro s t g th pol rest kinds p h passes
    have hfields : field p 18 1 = th.toNat ∧ field p 19 1 = pol.toNat := ⟨policyPayload_threshold, policyPayload_polarity⟩
    refine ⟨fun hbad => ?_, fun ⟨hkinds, hth, hpol⟩ => ?_⟩
    · refine (serve_ready (reqSetNoticePolicy p) t h rfl rfl).trans ?_
      rw [hfields.1, hfields.2]
      split
      next x i high hx hi hhigh =>
        have hpol : pol.toNat ≤ 1 := Nat.not_lt.mp fun hlt => nomatch (flagOf_of_lt hlt).symm.trans hhigh
        have hth : th.toNat < 4 := by
          rw [indexOf_some] at hi
          omega
        exact (hbad ⟨passes_of_noticePoliciesOf hx, hth, hpol⟩).elim
      next => rfl
    · have hindex : indexOf th.toNat = some ⟨th.toNat, hth⟩ := indexOf_some.mpr rfl
      let q : NQ :=
        { s.nq with
          policy := carriedPolicies kinds
          threshold := ⟨th.toNat, hth⟩
          activeHigh := decide (pol = 1#8) }
      refine ⟨q.evaluate, ?_, rfl, rfl, rfl, rfl, rfl, rfl, ?_, fun k => ?_⟩
      · refine (serve_ready (reqSetNoticePolicy p) t h rfl rfl).trans ?_
        rw [hfields.1, hfields.2, show noticePoliciesOf p = _ from noticePoliciesOf_of_passes hkinds, hindex,
          flagOf_byte hpol]
        refine congrArg (fun l => Host.Outcome.next (State.answered _ t rest 0x41#8 g .ok l)) ?_
        exact noticePolicyBytes_of_passes hkinds rfl rfl rfl hpol rfl
      · have hlevel (a : Bool) : (a == decide (pol = 1#8)) = if pol = 1#8 then a else !a := by
          by_cases hp : pol = 1#8 <;> simp [hp]
        exact hlevel _
      · obtain ⟨hm, hp⟩ := hkinds k
        exact ⟨congrArg NoticePolicy.masked (carriedPolicies_get k),
          (congrArg (fun x => x.priority.val) (carriedPolicies_get k)).trans (Nat.mod_eq_of_lt hp)⟩
  · have hdue : q.attention = true ↔ ∃ r ∈ q.queue, q.threshold ≤ r.priority := by
      rw [hq.attention, List.any_eq_true]
      simp only [decide_eq_true_eq]
    refine ⟨fun hlow => ?_, fun hhigh => ?_⟩
    · rw [← hdue, NQ.level, hlow]
      cases q.attention <;> decide
    · rw [← hdue, NQ.level, hhigh]
      cases q.attention <;> decide

end Sys2Proof.Proofs
end

section
set_option deprecated.oldSectionVars true -- proofs in sequence: their tasks would not fit the thread limit
/-! What every command can do to the state, written out once (`exec_rules`): a relation `Q` between a command, the state
before and the state after holds of every command if it holds of every outcome that a command can have, where a relation
`W` says what the work of a request does. The laws that every command keeps are instances of it. -/
namespace Sys2Proof.Machine

/-! ### The state in which a request runs, and an answered request -/

@[simp] theorem State.taken_cr (s : State) (t : Stamp) (rest : List Frame) : (s.taken t rest).cr = s.cr := rfl
@[simp] theorem State.taken_fmc (s : State) (t : Stamp) (rest : List Frame) : (s.taken t rest).fmc = s.fmc := rfl
@[simp] theorem State.taken_pu (s : State) (t : Stamp) (rest : List Frame) : (s.taken t rest).pu = s.pu := rfl
@[simp] theorem State.taken_ce (s : State) (t : Stamp) (rest : List Frame) : (s.taken t rest).ce = s.ce := rfl
@[simp] theorem State.taken_op (s : State) (t : Stamp) (rest : List Frame) : (s.taken t rest).op = s.op := rfl
@[simp] theorem State.taken_hu (s : State) (t : Stamp) (rest : List Frame) : (s.taken t rest).hu = s.hu := rfl
@[simp] theorem State.taken_fu (s : State) (t : Stamp) (rest : List Frame) : (s.taken t rest).fu = s.fu := rfl
@[simp] theorem State.taken_nq (s : State) (t : Stamp) (rest : List Frame) : (s.taken t rest).nq = s.nq := rfl
@[simp] theorem State.taken_free (s : State) (t : Stamp) (rest : List Frame) : (s.taken t rest).free = s.free := rfl
@[simp] theorem State.taken_pending (s : State) (t : Stamp) (rest : List Frame) : (s.taken t rest).pending = s.pending := rfl
@[simp] theorem State.taken_timebase (s : State) (t : Stamp) (rest : List Frame) : (s.taken t rest).timebase = t := rfl
@[simp] theorem State.taken_lc (s : State) (t : Stamp) (rest : List Frame) :
    (s.taken t rest).lc = { s.lc with inbox := rest } := rfl

@[simp] theorem State.answered_cr (s : State) (t : Stamp) (rest : List Frame) (k g : Byte) (st : Status)
    (data : List Byte) : (s.answered t rest k g st data).cr = s.cr := rfl
@[simp] theorem State.answered_fmc (s : State) (t : Stamp) (rest : List Frame) (k g : Byte) (st : Status)
    (data : List Byte) : (s.answered t rest k g st data).fmc = s.fmc := rfl
@[simp] theorem State.answered_vs (s : State) (t : Stamp) (rest : List Frame) (k g : Byte) (st : Status)
    (data : List Byte) : (s.answered t rest k g st data).vs = s.vs := rfl
@[simp] theorem State.answered_pu (s : State) (t : Stamp) (rest : List Frame) (k g : Byte) (st : Status)
    (data : List Byte) : (s.answered t rest k g st data).pu = s.pu := rfl
@[simp] theorem State.answered_ce (s : State) (t : Stamp) (rest : List Frame) (k g : Byte) (st : Status)
    (data : List Byte) : (s.answered t rest k g st data).ce = s.ce := rfl
@[simp] theorem State.answered_op (s : State) (t : Stamp) (rest : List Frame) (k g : Byte) (st : Status)
    (data : List Byte) : (s.answered t rest k g st data).op = s.op := rfl
@[simp] theorem State.answered_hu (s : State) (t : Stamp) (rest : List Frame) (k g : Byte) (st : Status)
    (data : List Byte) : (s.answered t rest k g st data).hu = s.hu := rfl
@[simp] theorem State.answered_fu (s : State) (t : Stamp) (rest : List Frame) (k g : Byte) (st : Status)
    (data : List Byte) : (s.answered t rest k g st data).fu = s.fu := rfl
@[simp] theorem State.answered_nq (s : State) (t : Stamp) (rest : List Frame) (k g : Byte) (st : Status)
    (data : List Byte) : (s.answered t rest k g st data).nq = s.nq := rfl
@[simp] theorem State.answered_free (s : State) (t : Stamp) (rest : List Frame) (k g : Byte) (st : Status)
    (data : List Byte) : (s.answered t rest k g st data).free = s.free := rfl
@[simp] theorem State.answered_pending (s : State) (t : Stamp) (rest : List Frame) (k g : Byte) (st : Status)
    (data : List Byte) : (s.answered t rest k g st data).pending = s.pending := rfl

/-- A relation between the states before and after a command, or a request's work. -/
abbrev Relation := Instr → State → State → Prop

/-- What a served request may answer: at once, with its work done and no change by a refusal; or later, by a CLOSE_VIEW
whose scan has begun. -/
def Served.Works (W : Relation) (c : Instr) (s : State) :
    Served → Prop
  | .reply w st data => W c s w ∧ (st.refusal = true → w = s ∧ data = [])
  | .later w =>
    ∃ t g p v, c = .closeView t g p ∧ s.pu.run.operational = true ∧ (s.vs.slots.get v).state = .loading ∧
      w = (s.setVs (s.vs.setSlot v ((s.vs.slots.get v).enter .closing))).setLc { s.lc with closing := some ⟨g, v, t⟩ }


/-! ### The rules -/

/-! What a request's work can do to the state in which it runs; a report and a refusal do nothing (R172). -/

abbrev NothingRule (W : Relation) : Prop :=
  ∀ (c : Instr) (s : State),
  W c s s

abbrev StartRule (W : Relation) : Prop :=
  ∀ {t : Stamp} {g : Byte} {p : List Byte} {s : State},
  s.pu.run = .stopped →
  W (.start t g p) s
      ((s.setPu { s.pu with run := .running, compare := t + Config.startLead, frameNo := 0#32 }).setOp
        (s.op.begin t))

abbrev StoppingRule (W : Relation) : Prop :=
  ∀ {t : Stamp} {g : Byte} {p : List Byte} {s : State},
  s.pu.run = .running → s.ce.state ≠ .idle →
  W (.stop t g p) s (s.setPu { s.pu with run := .stopping })

abbrev StopRule (W : Relation) : Prop :=
  ∀ {t : Stamp} {g : Byte} {p : List Byte} {s : State},
  s.pu.run = .running → s.ce.state = .idle →
  W (.stop t g p) s (s.stopOutput t)

abbrev InitialiseRule (W : Relation) : Prop :=
  ∀ {t : Stamp} {g : Byte} {p : List Byte} {s : State},
  s.pu.run = .memoryFault →
  W (.restart t g p) s ((s.setPu { s.pu with run := .startup }).setFmc { s.fmc with init := .training t })

abbrev RestartRule (W : Relation) : Prop :=
  ∀ {t : Stamp} {g : Byte} {p : List Byte} {s : State},
  s.pu.run.operational = true →
  W (.restart t g p) s s.restart

abbrev TimingRule (W : Relation) : Prop :=
  ∀ {t : Stamp} {g : Byte} {p : List Byte} {s : State} (per age : Nat),
  (31488 ≤ per ∧ per ≤ 100000) → (10000 ≤ age ∧ age ≤ 200000) →
  W (.setTiming t g p) s (s.setPu { s.pu with pendingPeriod := per, maxAge := age })

abbrev DescriptorRule (W : Relation) : Prop :=
  ∀ {t : Stamp} {g : Byte} {p : List Byte} {s : State} (cam : Camera),
  s.pu.run.operational = true → field p 0 1 = cam.val → (s.cr.get cam).qual = .disabled →
  (descriptorOf p).inRange = true →
  W (.setCamera t g p) s (s.setReceiver cam { s.cr.get cam with descriptor := some (descriptorOf p) })

abbrev EnableRule (W : Relation) : Prop :=
  ∀ {t : Stamp} {g : Byte} {p : List Byte} {s : State} (cam : Camera) (d : Descriptor),
  s.pu.run.operational = true → field p 0 1 = cam.val → (s.cr.get cam).qual = .disabled →
  (s.cr.get cam).descriptor = some d →
  W (.enableCamera t g p) s (s.setReceiver cam
      { s.cr.get cam with qual := .noSignal, goodRun := 0, badRun := 0, threshold := silenceThreshold d })

abbrev DisableRule (W : Relation) : Prop :=
  ∀ {t : Stamp} {g : Byte} {p : List Byte} {s : State} (cam : Camera),
  s.pu.run.operational = true → field p 0 1 = cam.val →
  W (.disableCamera t g p) s ((s.releaseRing cam).setReceiver cam (s.cr.get cam).disable)

abbrev ResetRule (W : Relation) : Prop :=
  ∀ {t : Stamp} {g : Byte} {p : List Byte} {s : State} (cam : Camera),
  s.pu.run.operational = true → field p 0 1 = cam.val →
  W (.resetCamera t g p) s
      ((((s.releaseRing cam).setReceiver cam (s.cr.get cam).restart).setHu (s.hu.resetCamera cam)).setFu
        (s.fu.resetCamera cam))

abbrev ClearRule (W : Relation) : Prop :=
  ∀ {t : Stamp} {g : Byte} {p : List Byte} {s : State} (v : Fin 4),
  ((s.vs.slots.get v).state = .empty ∨ (s.vs.slots.get v).state = .loading ∨ (s.vs.slots.get v).state = .ready) →
  W (.clearView t g p) s (s.setVs (s.vs.setSlot v .reset))

abbrev LoadRule (W : Relation) : Prop :=
  ∀ {t : Stamp} {g : Byte} {p : List Byte} {s : State} (v : Fin 4) (records : List NodeRecord),
  records ≠ [] → ((s.vs.slots.get v).state = .empty ∨ (s.vs.slots.get v).state = .loading) →
  W (.loadNodes t g p) s
      (s.setVs (s.vs.setSlot v ⟨.loading, putNodes (s.vs.slots.get v).nodes (field p 1 2) records⟩))

abbrev SelectRule (W : Relation) : Prop :=
  ∀ {t : Stamp} {g : Byte} {p : List Byte} {s : State} (v : Fin 4),
  (s.vs.slots.get v).state = .ready →
  W (.selectView t g p) s (s.setVs
      { s.vs with
        slots := (moveSlots s.vs.slots .pending .ready).set v
          (((moveSlots s.vs.slots .pending .ready).get v).enter .pending)
        selection := .slot v })

abbrev ReselectRule (W : Relation) : Prop :=
  ∀ {t : Stamp} {g : Byte} {p : List Byte} {s : State},
  W (.selectView t g p) s
      (s.setVs { s.vs with slots := moveSlots s.vs.slots .pending .ready, selection := .nonePending })

abbrev WithdrawRule (W : Relation) : Prop :=
  ∀ {t : Stamp} {g : Byte} {p : List Byte} {s : State},
  W (.selectViewNone t g p) s
      (s.setVs { s.vs with slots := moveSlots s.vs.slots .pending .ready, selection := .withdraw })

abbrev ZoneRule (W : Relation) : Prop :=
  ∀ {t : Stamp} {g : Byte} {p : List Byte} {s : State} (c z : Fin 4) (x : Zone),
  (x.i0 ≤ x.i1 ∧ x.i1 ≤ 44 ∧ x.j0 ≤ x.j1 ∧ x.j1 ≤ 59) →
  W (.setZone t g p) s (s.setVs { s.vs with zones := s.vs.zones.set c ((s.vs.zones.get c).set z x) })

abbrev BodyRule (W : Relation) : Prop :=
  ∀ {t : Stamp} {g : Byte} {p : List Byte} {s : State} (b : BitVec 4),
  W (.setBody t g p) s (s.setVs { s.vs with pendingBody := b })

abbrev FillRule (W : Relation) : Prop :=
  ∀ {t : Stamp} {g : Byte} {p : List Byte} {s : State} (y : Yuv),
  W (.setFill t g p) s (s.setVs { s.vs with fill := y })

abbrev HarmoniseRule (W : Relation) : Prop :=
  ∀ {t : Stamp} {g : Byte} {p : List Byte} {s : State} (n : HarmSettings),
  harmSettingsOf p = some n →
  W (.setHarmonise t g p) s (s.setHu (s.hu.configure n))

abbrev GainRule (W : Relation) : Prop :=
  ∀ {t : Stamp} {g : Byte} {p : List Byte} {s : State} (cam : Camera),
  W (.setGain t g p) s (s.setHu
      { s.hu with gains := s.hu.gains.set cam (clampNat (field p 1 2) s.hu.settings.gmin s.hu.settings.gmax) })

abbrev ClearFaultsRule (W : Relation) : Prop :=
  ∀ {t : Stamp} {g : Byte} {p : List Byte} {s : State} (sources kinds : Nat) (first : Bool),
  W (.clearFaults t g p) s (s.setFu (s.fu.clear sources kinds first))

abbrev FaultPolicyRule (W : Relation) : Prop :=
  ∀ {t : Stamp} {g : Byte} {p : List Byte} {s : State} (k : FaultKind) (masked cont : Bool),
  (cont && k.fixedSeverity) = false →
  W (.setFaultPolicy t g p) s (s.setFu { s.fu with policy := s.fu.policy.set k ⟨masked, cont⟩ })

abbrev FetchRule (W : Relation) : Prop :=
  ∀ {t : Stamp} {g : Byte} {p : List Byte} {s : State} (n : Nat),
  W (.fetchNotices t g p) s (s.setNq (s.nq.fetch n))

abbrev NoticePolicyRule (W : Relation) : Prop :=
  ∀ {t : Stamp} {g : Byte} {p : List Byte} {s : State} (pol : PerNotice NoticePolicy)
  (th : Fin 4) (high : Bool),
  W (.setNoticePolicy t g p) s
      (s.setNq { s.nq with policy := pol, threshold := th, activeHigh := high }.evaluate)

/-! A command passes its stamp and does nothing else, or it is a request that is answered; a refusal leaves the state as it
was when the request was taken, and answers no data. -/

abbrev ElapsedRule (Q : Relation) : Prop :=
  ∀ {c : Instr} {s : State} {t : Stamp}, c.stamp = some t → Q c s (s.arrive t)

abbrev AnsweredRule (W Q : Relation) : Prop :=
  ∀ {c : Instr} {s w : State} {q : Request} {rest : List Frame} {st : Status} {data : List Byte},
  c.request = some q → s.asks q.kind q.tag q.payload rest → W c (s.taken q.stamp rest) w →
  (st.refusal = true → w = s.taken q.stamp rest ∧ data = []) →
  Q c s (w.setLc (w.lc.placeExecutor q.kind q.tag st data))

/-! What an event can do where it comes about, and what CLOSE_VIEW does where it starts its scan. -/

abbrev PowerOnRule (Q : Relation) : Prop :=
  ∀ {s : State} (a b : Bool),
  Q (.powerOn a b) s
      { State.reset with lc := { LC.reset with rate1 := a, rate0 := b }, free := s.free, pending := s.pending }

abbrev TrainedRule (Q : Relation) : Prop :=
  ∀ {t : Stamp} {s : State} (start : Stamp),
  s.fmc.init = .training start →
  Q (.trainingComplete t true) s ((s.arrive t).setFmc { s.fmc with init := .filling start })

abbrev UntrainedRule (Q : Relation) : Prop :=
  ∀ {t : Stamp} {s : State} (start : Stamp),
  s.fmc.init = .training start →
  Q (.trainingComplete t false) s
      ((((s.arrive t).setFmc { s.fmc with init := .idle }).setPu { s.pu with run := .memoryFault }).raise
        .memoryFault .part 0 t)

abbrev FilledRule (Q : Relation) : Prop :=
  ∀ {t : Stamp} {s : State} (start : Stamp),
  s.fmc.init = .filling start →
  Q (.fillComplete t) s
      ((((s.arrive t).setFmc { s.fmc with init := .idle, mem := [], wordErrors := [] }).setPu
        { s.pu with run := .stopped }).raise .memoryReady .part 0 t)

abbrev ByteRule (Q : Relation) : Prop :=
  ∀ {t : Stamp} {b : Byte} {s : State},
  Q (.byteArrival t b true) s ((s.arrive t).setLc (s.lc.takeByte b t))

abbrev GapRule (Q : Relation) : Prop :=
  ∀ {t : Stamp} {s : State},
  Q (.gapExpiry t) s ((s.arrive t).setLc s.lc.expireGap)

abbrev SentRule (Q : Relation) : Prop :=
  ∀ {t : Stamp} {s : State},
  Q (.replySent t) s ((s.arrive t).setLc { s.lc with outbox := s.lc.outbox.tail })

abbrev UnknownRule (Q : Relation) : Prop :=
  ∀ {t : Stamp} {k g : Byte} {p : List Byte} {s : State} {rest : List Frame},
  s.asks k g p rest →
  Q (.unknownKind t k g p) s (s.answered t rest k g .unknownKind [])

abbrev CloseViewRule (Q : Relation) : Prop :=
  ∀ {t : Stamp} {g : Byte} {p : List Byte} {s : State} {rest : List Frame} (v : Fin 4),
  s.asks 0x22#8 g p rest → s.pu.run.operational = true → (s.vs.slots.get v).state = .loading →
  Q (.closeView t g p) s
      (((s.taken t rest).setVs (s.vs.setSlot v ((s.vs.slots.get v).enter .closing))).setLc
        { s.lc with inbox := rest, closing := some ⟨g, v, t⟩ })

abbrev ScannedRule (Q : Relation) : Prop :=
  ∀ {t : Stamp} {s : State} (k : Closing) (data : List Byte),
  s.lc.closing = some k → unwritten (s.vs.slots.get k.slot).nodes = [] →
  Q (.scanComplete t) s
      (((s.arrive t).setVs (s.vs.setSlot k.slot ((s.vs.slots.get k.slot).enter .ready))).setLc
        (({ s.lc with closing := none } : LC).placeExecutor 0x22#8 k.tag .ok data))

abbrev UnscannedRule (Q : Relation) : Prop :=
  ∀ {t : Stamp} {s : State} (k : Closing) (data : List Byte),
  s.lc.closing = some k →
  Q (.scanComplete t) s
      (((s.arrive t).setVs (s.vs.setSlot k.slot ((s.vs.slots.get k.slot).enter .loading))).setLc
        (({ s.lc with closing := none } : LC).placeExecutor 0x22#8 k.tag .badValue data))

abbrev AcquiresRule (Q : Relation) : Prop :=
  ∀ {t : Stamp} {cam : Camera} {p : List Byte} {s : State},
  (s.cr.get cam).qual = .noSignal →
  Q (.frameOpen t cam p) s
      ((s.arrive t).setReceiver cam ((((s.cr.get cam).touch t).acquire t).beginFrame t))

abbrev OpensRule (Q : Relation) : Prop :=
  ∀ {t : Stamp} {cam : Camera} {p : List Byte} {s : State},
  (s.cr.get cam).qual.timed = true → (s.cr.get cam).openFrame = none →
  Q (.frameOpen t cam p) s ((s.arrive t).setReceiver cam (((s.cr.get cam).touch t).beginFrame t))

abbrev ReopensRule (Q : Relation) : Prop :=
  ∀ {t : Stamp} {cam : Camera} {p : List Byte} {s : State} (f : OpenFrame) (x : Failure) (s1 : State),
  (s.cr.get cam).qual.timed = true → (s.cr.get cam).openFrame = some f →
  x = f.failure.getD ⟨.struct, t, some f.next⟩ →
  s1 = ((s.arrive t).setReceiver cam ((s.cr.get cam).touch t)).closeBad cam f x t →
  Q (.frameOpen t cam p) s (s1.setReceiver cam ((s1.cr.get cam).beginFrame t))

abbrev TouchedRule (Q : Relation) : Prop :=
  ∀ {c : Instr} {t : Stamp} {s : State} (cam : Camera),
  c.port = some cam.val → c.stamp = some t →
  Q c s ((s.arrive t).setReceiver cam ((s.cr.get cam).touch t))

abbrev InfoRule (Q : Relation) : Prop :=
  ∀ {t : Stamp} {cam : Camera} {p : List Byte} {s : State} (f : OpenFrame),
  (s.cr.get cam).qual.timed = true → (s.cr.get cam).openFrame = some f → f.failure = none →
  Q (.info t cam p) s ((s.arrive t).setReceiver cam (((s.cr.get cam).touch t).takeInfo f p t))

abbrev LineRule (Q : Relation) : Prop :=
  ∀ {t : Stamp} {cam : Camera} {p : List Byte} {s : State} (f : OpenFrame),
  (s.cr.get cam).qual.timed = true → (s.cr.get cam).openFrame = some f → f.failure = none →
  Q (.line t cam p) s ((s.arrive t).setReceiver cam (((s.cr.get cam).touch t).takeLine f p t))

abbrev ForeignRule (Q : Relation) : Prop :=
  ∀ {t : Stamp} {cam : Camera} {y : Byte} {p : List Byte} {s : State} (f : OpenFrame),
  (s.cr.get cam).qual.timed = true → (s.cr.get cam).openFrame = some f → f.failure = none →
  Q (.foreignPacket t cam y p) s
      ((s.arrive t).setReceiver cam (((s.cr.get cam).touch t).fail f .struct t (some f.next)))

abbrev ClosesBadRule (Q : Relation) : Prop :=
  ∀ {t : Stamp} {cam : Camera} {p : List Byte} {s : State} (f : OpenFrame) (x : Failure),
  (s.cr.get cam).qual.timed = true → (s.cr.get cam).openFrame = some f →
  judgeFrame f (s.cr.get cam).height t = .inl x →
  Q (.frameClose t cam p) s
      (((s.arrive t).setReceiver cam ((s.cr.get cam).touch t)).closeBad cam f x t)

abbrev ClosesGoodRule (Q : Relation) : Prop :=
  ∀ {t : Stamp} {cam : Camera} {p : List Byte} {s : State} (f : OpenFrame) (i : Info),
  (s.cr.get cam).qual.timed = true → (s.cr.get cam).openFrame = some f →
  judgeFrame f (s.cr.get cam).height t = .inr i →
  Q (.frameClose t cam p) s
      (((s.arrive t).setReceiver cam ((s.cr.get cam).touch t)).closeGood cam i t)

abbrev SilencedRule (Q : Relation) : Prop :=
  ∀ {t : Stamp} {cam : Camera} {s : State} (r : FaultReport),
  (s.cr.get cam).qual.qualified = true →
  Q (.silenceExpiry t cam) s
      ((((s.arrive t).handFault r).setReceiver cam (s.cr.get cam).silence).raise .qualificationLost (.cam cam) 0 t)

abbrev SilentRule (Q : Relation) : Prop :=
  ∀ {t : Stamp} {cam : Camera} {s : State},
  (s.cr.get cam).qual = .acquiring →
  Q (.silenceExpiry t cam) s ((s.arrive t).setReceiver cam (s.cr.get cam).silence)

abbrev OpenRequestRule (Q : Relation) : Prop :=
  ∀ {t : Stamp} {cam : Camera} {s : State} (rest : List FifoEntry),
  (s.cr.get cam).fifo = .openReq :: rest →
  Q (.openRequest t cam) s
      (((s.arrive t).setReceiver cam { s.cr.get cam with fifo := rest }).setRing cam (ringOpen (s.fmc.rings.get cam) t))

abbrev AbandonRequestRule (Q : Relation) : Prop :=
  ∀ {t : Stamp} {cam : Camera} {s : State} (rest : List FifoEntry),
  (s.cr.get cam).fifo = .abandonReq :: rest →
  Q (.abandonRequest t cam) s
      (((s.arrive t).setReceiver cam { s.cr.get cam with fifo := rest }).setRing cam (ringAbandon (s.fmc.rings.get cam)))

abbrev PublishRequestRule (Q : Relation) : Prop :=
  ∀ {t : Stamp} {cam : Camera} {s : State} (close : Stamp) (n : Half) (rest : List FifoEntry),
  (s.cr.get cam).fifo = .publishReq close n :: rest →
  Q (.publishRequest t cam) s
      (((s.arrive t).setReceiver cam { s.cr.get cam with fifo := rest }).setRing cam
        (ringPublish (s.fmc.rings.get cam) close n))

abbrev DropReadyRequestRule (Q : Relation) : Prop :=
  ∀ {t : Stamp} {cam : Camera} {s : State} (rest : List FifoEntry),
  (s.cr.get cam).fifo = .dropReadyReq :: rest →
  Q (.dropReadyRequest t cam) s
      (((s.arrive t).setReceiver cam { s.cr.get cam with fifo := rest }).setRing cam (ringDropReady (s.fmc.rings.get cam)))

abbrev WriterGrantRule (Q : Relation) : Prop :=
  ∀ {t : Stamp} {ask : Camera} {s : State} (c : Camera),
  s.pu.run.operational = true → s.fmc.transfer = none → nextWriter s.cr s.fmc.lastServed = some c →
  Q (.arbiterGrant t ask) s ((s.arrive t).setFmc { s.fmc with transfer := some (.writer c), lastServed := c })

abbrev TapsGrantRule (Q : Relation) : Prop :=
  ∀ {t : Stamp} {ask : Camera} {s : State} (x : Transfer),
  s.pu.run.operational = true → s.fmc.transfer = none → (∀ c, x ≠ .writer c) →
  Q (.arbiterGrant t ask) s ((s.arrive t).setFmc { s.fmc with transfer := some x })

abbrev WrittenRule (Q : Relation) : Prop :=
  ∀ {t : Stamp} {s : State} (c : Camera) (k off : Nat) (bytes : List Byte),
  s.fmc.transfer = some (.writer c) → chunkOf (s.cr.get c) = some (k, off, bytes) →
  Q (.writerTransferComplete t) s
      (((s.arrive t).setReceiver c { s.cr.get c with fifo := afterChunk (s.cr.get c).fifo }).setFmc
        { s.fmc.store c k off bytes with transfer := none })

abbrev DroppedRule (Q : Relation) : Prop :=
  ∀ {t : Stamp} {s : State} (c : Camera),
  s.fmc.transfer = some (.writer c) →
  Q (.writerTransferComplete t) s ((s.arrive t).setFmc { s.fmc with transfer := none })

abbrev ReadRule (Q : Relation) : Prop :=
  ∀ {t : Stamp} {ups : List (Nat × WordError)} {s : State} (c : Camera) (slot : Fin 3) (n : Half)
  (no : Count) (k x : Nat) (u v : Int) (w h : Nat),
  s.fmc.transfer = some (.taps c slot n no k x u v w h) →
  Q (.compositionTransferComplete t ups) s ((s.arrive t).completeTaps t ups c slot n no k x u v w h)

abbrev LineCompleteRule (Q : Relation) : Prop :=
  ∀ {t : Stamp} {s : State},
  s.ce.state = .composing → s.ce.pixels.length = Config.canvasWidth →
  s.op.fifo.length < Config.lineFifoDepth →
  Q (.lineComplete t) s
      (((s.arrive t).setOp { s.op with fifo := s.op.fifo ++ [(s.ce.line, packLine s.ce.pixels)] }).setCe
        (s.ce.afterLine s.nodes (s.op.fifo.length + 1)))

abbrev FrameStartRule (Q : Relation) : Prop :=
  ∀ {t : Stamp} {s : State},
  s.pu.run = .running → t = s.pu.compare → s.ce.state = .idle →
  Q (.outputFrameStart t) s ((s.arrive t).startFrame t)

abbrev BlankRule (Q : Relation) : Prop :=
  ∀ {t : Stamp} {s : State},
  s.periodDue t = true →
  Q (.linePeriodStart t) s ((s.arrive t).setOp { s.op with counter := s.op.counter + 1, emitting := none })

abbrev ActiveRule (Q : Relation) : Prop :=
  ∀ {t : Stamp} {s : State} (k : Nat),
  s.periodDue t = true →
  Q (.linePeriodStart t) s
      (((s.arrive t).setOp { s.op with counter := s.op.counter + 1, emitting := none }).emitLine k t)

abbrev FrameEndRule (Q : Relation) : Prop :=
  ∀ {t : Stamp} {s : State} (set : CompSet),
  s.ce.set = some set → s.ce.state = .finished →
  Q (.frameEnd t) s ((s.arrive t).endFrame set t)

/-! ### The work of the requests -/

section
variable {W Q : Relation}

theorem works_refuse (nothing : NothingRule W) (c : Instr) (s : State) (st : Status) : (refuse s st).Works W c s :=
  ⟨nothing c s, fun _ => ⟨rfl, rfl⟩⟩

theorem works_report (nothing : NothingRule W) (c : Instr) (s : State) (data : List Byte) :
    (Served.reply s .ok data).Works W c s :=
  ⟨nothing c s, fun h => nomatch h⟩

theorem works_accept {c : Instr} {s w : State} (h : W c s w) : (accept w).Works W c s := ⟨h, fun h => nomatch h⟩

theorem works_whenReady (nothing : NothingRule W) {c : Instr} {s : State} {k : Served} (h
    : s.pu.run.operational = true → k.Works W c s) :
    (whenReady s k).Works W c s := by
  unfold whenReady
  split
  · exact h ‹_›
  · exact works_refuse nothing c s _

theorem works_whenLength (nothing : NothingRule W) {c : Instr} {s : State} {p : List Byte} {n : Nat} {k : Served} (h
    : k.Works W c s) :
    (whenLength s p n k).Works W c s := by
  unfold whenLength
  split
  · exact h
  · exact works_refuse nothing c s _

theorem works_withIndex (nothing : NothingRule W) {c : Instr} {s : State} {n : Nat} {k : Fin 4 → Served} (h
    : ∀ i, n = i.val → (k i).Works W c s) :
    (withIndex s n k).Works W c s := by
  unfold withIndex
  split
  case h_1 i hi => exact h i (indexOf_some.mp hi)
  case h_2 => exact works_refuse nothing c s _

/-- A request whose body does its work has the command's effect. -/
theorem effect_of_serve (elapsed : ElapsedRule Q) (answered : AnsweredRule W Q) (closeView : CloseViewRule Q) {c
    : Instr} {q : Request} {s s' : State} {body : State → Served} (hq : c.request = some q)
    (hstamp : c.stamp = some q.stamp) (hkind : ∀ t g p, c = .closeView t g p → q = ⟨t, 0x22#8, g, p, some 1, true, true⟩)
    (h : serve q.kind q.stamp q.tag q.payload body s = .next s') (hb : ∀ w, (body w).Works W c w) : Q c s s' := by
  rcases serve_next h with rfl | ⟨rest, ha, rfl⟩
  · exact elapsed hstamp
  · change Q c s ((body (s.taken q.stamp rest)).finish q.kind q.tag)
    have hw := hb (s.taken q.stamp rest)
    generalize body (s.taken q.stamp rest) = k at hw
    cases k with
    | reply w st data => exact answered hq ha hw.1 hw.2
    | later w =>
      obtain ⟨t, g, p, v, rfl, hs, hv, rfl⟩ := hw
      obtain rfl := hkind t g p rfl
      exact closeView v ha hs hv

section
variable {c : Instr} {t : Stamp} {g : Byte} {p : List Byte} {s : State}

theorem works_start (nothing : NothingRule W) (start : StartRule W) : (reqStart t p s).Works W (.start t g p) s := by
  refine works_whenReady nothing fun hs => works_whenLength nothing ?_
  cases hrun : s.pu.run with
  | stopped => exact works_accept (start hrun)
  | stopping => exact works_refuse nothing _ s _
  | running | startup | memoryFault => exact works_accept (nothing _ s)

theorem works_stop (nothing : NothingRule W) (stopping : StoppingRule W) (stop : StopRule W) :
    (reqStop t p s).Works W (.stop t g p) s := by
  refine works_whenReady nothing fun hs => works_whenLength nothing ?_
  cases hrun : s.pu.run with
  | running =>
    by_cases hf : s.frameInProgress = true
    · rw [if_pos hf]; exact works_accept (stopping hrun (s.frameInProgress_iff.mp hf))
    · rw [if_neg hf]
      exact works_accept (stop hrun (not_not.mp fun h => hf (s.frameInProgress_iff.mpr h)))
  | stopped | stopping | startup | memoryFault => exact works_accept (nothing _ s)

theorem works_restart (nothing : NothingRule W) (initialise : InitialiseRule W) (restart : RestartRule W) :
    (reqRestart t p s).Works W (.restart t g p) s := by
  unfold reqRestart
  cases hrun : s.pu.run with
  | startup => exact works_refuse nothing _ s _
  | memoryFault => exact works_whenLength nothing (works_accept (initialise hrun))
  | stopped | running | stopping => exact works_whenLength nothing (works_accept (restart (by rw [hrun]; rfl)))

/-- A clamped value lies between the limits. -/
theorem clampNat_mem {v lo hi : Nat} (h : lo ≤ hi) : lo ≤ clampNat v lo hi ∧ clampNat v lo hi ≤ hi := by
  rw [clampNat_eq h]
  omega

theorem works_setTiming (nothing : NothingRule W) (timing : TimingRule W) : (reqSetTiming p s).Works W
    (.setTiming t g p) s :=
  works_whenReady nothing fun _ => works_whenLength nothing
    ⟨timing _ _ (clampNat_mem (by omega)) (clampNat_mem (by omega)), fun h => by split at h <;> cases h⟩

theorem works_setCamera (nothing : NothingRule W) (descriptor : DescriptorRule W) : (reqSetCamera p s).Works W
    (.setCamera t g p) s := by
  refine works_whenReady nothing fun hs => works_whenLength nothing (works_withIndex nothing fun cam hcam => ?_)
  by_cases hq : (s.cr.get cam).qual.enabled = true
  · rw [if_pos hq]; exact works_refuse nothing _ s _
  · rw [if_neg hq]
    by_cases hd : (descriptorOf p).inRange = true
    · rw [if_pos hd]
      exact works_accept (descriptor cam hs hcam (not_not.mp fun h => hq ((Qual.enabled_iff _).mpr h)) hd)
    · rw [if_neg hd]; exact works_refuse nothing _ s _

theorem works_enableCamera (nothing : NothingRule W) (enable : EnableRule W) : (reqEnableCamera p s).Works W
    (.enableCamera t g p) s := by
  refine works_whenReady nothing fun hs => works_whenLength nothing (works_withIndex nothing fun cam hcam => ?_)
  by_cases hq : (s.cr.get cam).qual.enabled = true
  · rw [if_pos hq]; exact works_accept (nothing _ s)
  · rw [if_neg hq]
    split
    case h_1 => exact works_refuse nothing _ s _
    case h_2 d hd => exact works_accept (enable cam d hs hcam (not_not.mp fun h => hq ((Qual.enabled_iff _).mpr h)) hd)

theorem works_disableCamera (nothing : NothingRule W) (disable : DisableRule W) : (reqDisableCamera p s).Works W
    (.disableCamera t g p) s := by
  refine works_whenReady nothing fun hs => works_whenLength nothing (works_withIndex nothing fun cam hcam => ?_)
  dsimp only
  rw [State.releaseRing_cr]
  exact works_accept (disable cam hs hcam)

theorem works_resetCamera (nothing : NothingRule W) (reset : ResetRule W) : (reqResetCamera p s).Works W
    (.resetCamera t g p) s := by
  refine works_whenReady nothing fun hs => works_whenLength nothing (works_withIndex nothing fun cam hcam => ?_)
  dsimp only
  rw [State.releaseRing_cr, State.releaseRing_hu, State.releaseRing_fu]
  exact works_accept (reset cam hs hcam)

theorem works_clearView (nothing : NothingRule W) (clear : ClearRule W) : (reqClearView p s).Works W
    (.clearView t g p) s := by
  refine works_whenReady nothing fun hs => works_whenLength nothing (works_withIndex nothing fun v _ => ?_)
  cases hv : (s.vs.slots.get v).state with
  | empty => exact works_accept (clear v (.inl hv))
  | loading => exact works_accept (clear v (.inr (.inl hv)))
  | ready => exact works_accept (clear v (.inr (.inr hv)))
  | closing | pending | active => exact works_refuse nothing _ s _

/-- LOAD_NODES carries at least one record (R33). -/
theorem nodeRecordsOf_ne_nil {first n : Nat} (h : nodeRunOk first n = true) : nodeRecordsOf p n ≠ [] := by
  intro hnil
  have hn : (nodeRecordsOf p n).length = n := by simp [nodeRecordsOf]
  have := ((nodeRunOk_iff first n).mp h).1
  rw [hnil, List.length_nil] at hn
  omega

theorem works_loadNodes (nothing : NothingRule W) (load : LoadRule W) : (reqLoadNodes p s).Works W
    (.loadNodes t g p) s := by
  refine works_whenReady nothing fun hs => ?_
  split
  case isFalse => exact works_refuse nothing _ s _
  case isTrue hp =>
    refine works_withIndex nothing fun v _ => ?_
    by_cases hr : (nodeRecordsOf p (field p 3 1)).all nodeRecordInRange = true
    · cases hv : (s.vs.slots.get v).state with
      | empty =>
        simp only [if_pos hr]
        exact works_accept (load v _ (nodeRecordsOf_ne_nil hp.2.2) (.inl hv))
      | loading =>
        simp only [if_pos hr]
        exact works_accept (load v _ (nodeRecordsOf_ne_nil hp.2.2) (.inr hv))
      | closing | ready | pending | active => exact works_refuse nothing _ s _
    · cases hv : (s.vs.slots.get v).state with
      | empty | loading => simp only [if_neg hr]; exact works_refuse nothing _ s _
      | closing | ready | pending | active => exact works_refuse nothing _ s _

theorem works_closeView (nothing : NothingRule W) : (reqCloseView t g p s).Works W (.closeView t g p) s := by
  refine works_whenReady nothing fun hs => works_whenLength nothing (works_withIndex nothing fun v _ => ?_)
  cases hv : (s.vs.slots.get v).state with
  | loading => exact ⟨t, g, p, v, rfl, hs, hv, rfl⟩
  | empty | closing | ready | pending | active => exact works_refuse nothing _ s _

theorem works_selectView (nothing : NothingRule W) (select : SelectRule W) (reselect : ReselectRule W) :
    (reqSelectView p s).Works W (.selectView t g p) s := by
  refine works_whenReady nothing fun hs => works_whenLength nothing (works_withIndex nothing fun v _ => ?_)
  cases hv : (s.vs.slots.get v).state with
  | ready => exact works_accept (select v hv)
  | pending => exact works_accept (nothing _ s)
  | active => exact works_accept reselect
  | empty | loading | closing => exact works_refuse nothing _ s _

theorem works_selectViewNone (nothing : NothingRule W) (withdraw : WithdrawRule W) : (reqSelectViewNone s).Works W
    (.selectViewNone t g p) s :=
  works_whenReady nothing fun _ => works_accept withdraw

theorem works_readNodes (nothing : NothingRule W) : (reqReadNodes p s).Works W c s := by
  refine works_whenReady nothing fun hs => works_whenLength nothing ?_
  split
  case isFalse => exact works_refuse nothing _ s _
  case isTrue =>
    refine works_withIndex nothing fun v _ => ?_
    cases hv : (s.vs.slots.get v).state with
    | loading | ready | pending | active => simp only [hv]; exact works_report nothing _ s _
    | empty | closing => simp only [hv]; exact works_refuse nothing _ s _

/-- A zone that SET_ZONE may write has its corners in order and on the cell grid (R44). -/
theorem zoneOf_range {en i0 i1 j0 j1 cond sense : Nat} {x : Zone} (h : zoneOf en i0 i1 j0 j1 cond sense = some x) :
    x.i0 ≤ x.i1 ∧ x.i1 ≤ 44 ∧ x.j0 ≤ x.j1 ∧ x.j1 ≤ 59 := by
  unfold zoneOf at h
  split at h
  case h_1 =>
    split at h
    case isTrue hr =>
      obtain rfl := Option.some.inj h
      simp only [Config.cellColumns, Config.cellRows] at hr ⊢
      omega
    case isFalse => cases h
  case h_2 => cases h

theorem works_setZone (nothing : NothingRule W) (zone : ZoneRule W) : (reqSetZone p s).Works W (.setZone t g p) s
    := by
  refine works_whenReady nothing fun hs => works_whenLength nothing
    (works_withIndex nothing fun cam _ => works_withIndex nothing fun z _ => ?_)
  split
  case h_1 x hx => exact works_accept (zone cam z x (zoneOf_range hx))
  case h_2 => exact works_refuse nothing _ s _

theorem works_setBody (nothing : NothingRule W) (body : BodyRule W) : (reqSetBody p s).Works W (.setBody t g p) s
    := by
  refine works_whenReady nothing fun hs => works_whenLength nothing ?_
  split
  · exact works_accept (body _)
  · exact works_refuse nothing _ s _

theorem works_setFill (nothing : NothingRule W) (fill : FillRule W) : (reqSetFill p s).Works W (.setFill t g p) s :=
  works_whenReady nothing fun _ => works_whenLength nothing (works_accept (fill _))

theorem works_setHarmonise (nothing : NothingRule W) (harmonise : HarmoniseRule W) : (reqSetHarmonise p s).Works W
    (.setHarmonise t g p) s := by
  refine works_whenReady nothing fun hs => works_whenLength nothing ?_
  split
  case h_1 n hn => exact ⟨harmonise n hn, fun h => by split at h <;> cases h⟩
  case h_2 => exact works_refuse nothing _ s _

theorem works_setGain (nothing : NothingRule W) (gain : GainRule W) : (reqSetGain p s).Works W (.setGain t g p) s :=
  works_whenReady nothing fun _ => works_whenLength nothing (works_withIndex nothing fun cam _ =>
    ⟨gain cam, fun h => by split at h <;> cases h⟩)

theorem works_clearFaults (nothing : NothingRule W) (clearFaults : ClearFaultsRule W) : (reqClearFaults p s).Works W
    (.clearFaults t g p) s := by
  refine works_whenReady nothing fun hs => works_whenLength nothing ?_
  split
  case h_1 first _ =>
    split
    · exact ⟨clearFaults _ _ first, fun h => nomatch h⟩
    · exact works_refuse nothing _ s _
  case h_2 => exact works_refuse nothing _ s _

theorem works_setFaultPolicy (nothing : NothingRule W) (faultPolicy : FaultPolicyRule W) :
    (reqSetFaultPolicy p s).Works W (.setFaultPolicy t g p) s := by
  refine works_whenReady nothing fun hs => works_whenLength nothing ?_
  split
  case h_1 k masked cont _ _ _ =>
    by_cases hk : (cont && k.fixedSeverity) = true
    · rw [if_pos hk]; exact works_refuse nothing _ s _
    · rw [if_neg hk]; exact ⟨faultPolicy k masked cont (Bool.eq_false_iff.mpr hk), fun h => nomatch h⟩
  case h_2 => exact works_refuse nothing _ s _

theorem works_fetchNotices (nothing : NothingRule W) (fetch : FetchRule W) : (reqFetchNotices p s).Works W
    (.fetchNotices t g p) s := by
  refine works_whenReady nothing fun hs => works_whenLength nothing ?_
  dsimp only
  split
  · exact ⟨fetch _, fun h => nomatch h⟩
  · exact works_refuse nothing _ s _

theorem works_setNoticePolicy (nothing : NothingRule W) (noticePolicy : NoticePolicyRule W) :
    (reqSetNoticePolicy p s).Works W (.setNoticePolicy t g p) s := by
  refine works_whenReady nothing fun hs => works_whenLength nothing ?_
  split
  case h_1 pol th high _ _ _ => exact ⟨noticePolicy pol th high, fun h => nomatch h⟩
  case h_2 => exact works_refuse nothing _ s _

theorem works_getHistory (nothing : NothingRule W) : (reqGetHistory p s).Works W c s := by
  refine works_whenReady nothing fun hs => works_whenLength nothing ?_
  dsimp only
  split
  · exact works_report nothing _ s _
  · exact works_refuse nothing _ s _

end

/-! ### A tap read -/

section
variable (s : State) (t : Stamp) (errors : List (Nat × WordError)) (words : List Nat) (c : Camera) (slot : Fin 3)
  (n : Half)

/-- The state once a tap read has looked at its words, in which these errors stand: the DRAM is free, and a corrected word
is reported (R93, R105). -/
def State.looked : State :=
  let s0 := s.setFmc { s.fmc with transfer := none, wordErrors := errors }
  if anyError errors words .single then s0.handFault ⟨.cam c, .eccFixed, t, some n, none, some slot⟩ else s0

theorem State.looked_cases :
    s.looked t errors words c slot n = s.setFmc { s.fmc with transfer := none, wordErrors := errors } ∨
    s.looked t errors words c slot n =
      (s.setFmc { s.fmc with transfer := none, wordErrors := errors }).handFault
        ⟨.cam c, .eccFixed, t, some n, none, some slot⟩ := by
  unfold State.looked
  dsimp only
  split
  · exact .inr rfl
  · exact .inl rfl

@[simp] theorem State.looked_fmc :
    (s.looked t errors words c slot n).fmc = { s.fmc with transfer := none, wordErrors := errors } := by
  rcases s.looked_cases t errors words c slot n with h | h <;> simp [h]

@[simp] theorem State.looked_ce : (s.looked t errors words c slot n).ce = s.ce := by
  rcases s.looked_cases t errors words c slot n with h | h <;> simp [h]

@[simp] theorem State.looked_vs : (s.looked t errors words c slot n).vs = s.vs := by
  rcases s.looked_cases t errors words c slot n with h | h <;> simp [h]

@[simp] theorem State.looked_nodes : (s.looked t errors words c slot n).nodes = s.nodes := by
  simp [State.nodes]

variable (ups : List (Nat × WordError)) (no : Count) (k x : Nat) (u v : Int) (w h : Nat)

/-- A tap read in which a word cannot be corrected poisons; any other delivers its sample (R105, R106). -/
theorem State.completeTaps_eq :
    let words := tapWords c slot u v w h
    let errors := addErrors s.fmc.wordErrors words ups
    s.completeTaps t ups c slot n no k x u v w h =
      if anyError errors words .double then (s.looked t errors words c slot n).poison t c slot n no
      else (s.looked t errors words c slot n).setCe (s.ce.deliver s.nodes c no k x (sampleAt s.fmc.mem c slot u v w h)) := by
  intro words errors
  unfold State.completeTaps
  extract_lets _ _ s1
  have hs1 : s1 = s.looked t errors words c slot n := rfl
  clear_value s1
  subst hs1
  rw [State.looked_ce, State.looked_nodes, State.looked_fmc]

/-- What a tap read may come to: the sample delivered, or the slot poisoned and the camera cut. -/
theorem State.completeTaps_fmc :
    ∃ errors, (s.completeTaps t ups c slot n no k x u v w h).fmc = { s.fmc with transfer := none, wordErrors := errors } ∨
      (s.completeTaps t ups c slot n no k x u v w h).fmc =
        { s.fmc with
          transfer := none, wordErrors := errors, rings := s.fmc.rings.set c (ringPoison (s.fmc.rings.get c) slot) } := by
  refine ⟨addErrors s.fmc.wordErrors (tapWords c slot u v w h) ups, ?_⟩
  rw [State.completeTaps_eq]
  split
  · rw [State.poison, State.handFault_fmc, State.setCe_fmc, State.setRing_fmc, State.afterPoisonLine_fmc, State.looked_fmc]
    exact .inr rfl
  · rw [State.setCe_fmc, State.looked_fmc]
    exact .inl rfl

end

/-! ### The events -/

section
variable {t : Stamp} {cam : Camera} {p : List Byte} {s s' : State}

theorem Qual.not_timed {q : Qual} (h : ¬ q.timed = true) : q = .disabled ∨ q = .noSignal := by
  cases q with
  | disabled => exact .inl rfl
  | noSignal => exact .inr rfl
  | acquiring | locked | holdover => exact absurd rfl h

@[simp] theorem Receiver.touch_qual (r : Receiver) (t : Stamp) : (r.touch t).qual = r.qual := by
  unfold Receiver.touch; split <;> rfl

@[simp] theorem Receiver.touch_openFrame (r : Receiver) (t : Stamp) : (r.touch t).openFrame = r.openFrame := by
  unfold Receiver.touch; split <;> rfl

@[simp] theorem Receiver.touch_descriptor (r : Receiver) (t : Stamp) : (r.touch t).descriptor = r.descriptor := by
  unfold Receiver.touch; split <;> rfl

@[simp] theorem Receiver.touch_fifo (r : Receiver) (t : Stamp) : (r.touch t).fifo = r.fifo := by
  unfold Receiver.touch; split <;> rfl

@[simp] theorem Receiver.touch_height (r : Receiver) (t : Stamp) : (r.touch t).height = r.height := by
  simp [Receiver.height]

theorem effect_training (elapsed : ElapsedRule Q) (trained : TrainedRule Q) (untrained : UntrainedRule Q) {answers
    : Bool} (h : execTrainingComplete t answers s = .next s') :
    Q (.trainingComplete t answers) s s' := by
  unfold execTrainingComplete at h
  split at h
  case h_2 => cases h; exact elapsed rfl
  case h_1 start hinit =>
    split at h
    case isFalse => cases h; exact elapsed rfl
    case isTrue =>
      cases answers <;> cases h
      · exact untrained start hinit
      · exact trained start hinit

theorem effect_fill (elapsed : ElapsedRule Q) (filled : FilledRule Q) (h : execFillComplete t s = .next s') : Q
    (.fillComplete t) s s' := by
  unfold execFillComplete at h
  split at h
  case h_2 => cases h; exact elapsed rfl
  case h_1 start hinit =>
    split at h
    case isFalse => cases h; exact elapsed rfl
    case isTrue => cases h; exact filled start hinit

theorem effect_scan (elapsed : ElapsedRule Q) (scanned : ScannedRule Q) (unscanned : UnscannedRule Q) (h
    : execScanComplete t s = .next s') : Q (.scanComplete t) s s' := by
  rcases scan_next h with rfl | ⟨k, hk, -, ⟨hu, rfl⟩ | ⟨i, rest, -, rfl⟩⟩
  · exact elapsed rfl
  · exact scanned k _ hk hu
  · exact unscanned k _ hk

theorem effect_frameOpen (elapsed : ElapsedRule Q) (acquires : AcquiresRule Q) (opens : OpensRule Q) (reopens
    : ReopensRule Q) (h : execFrameOpen t cam p s = .next s') : Q (.frameOpen t cam p) s s' := by
  unfold execFrameOpen at h
  dsimp only at h
  rw [Receiver.touch_qual, Receiver.touch_openFrame] at h
  cases hq : (s.cr.get cam).qual with
  | disabled => rw [hq] at h; cases h; exact elapsed rfl
  | noSignal => rw [hq] at h; cases h; exact acquires hq
  | acquiring | locked | holdover =>
    rw [hq] at h
    cases ho : (s.cr.get cam).openFrame with
    | none => rw [ho] at h; cases h; exact (opens (by rw [hq]; rfl) ho)
    | some f => rw [ho] at h; cases h; exact (reopens f _ _ (by rw [hq]; rfl) ho rfl rfl)

/-- A packet that only a RECEIVING frame takes notice of restarts the silence timing at most, or meets such a frame. -/
theorem receive_next {f : Receiver → OpenFrame → Receiver} (h : receive t cam f s = .next s') :
    s' = (s.arrive t).setReceiver cam ((s.cr.get cam).touch t) ∨
    ∃ o, (s.cr.get cam).qual.timed = true ∧ (s.cr.get cam).openFrame = some o ∧ o.failure = none ∧
      s' = (s.arrive t).setReceiver cam (f ((s.cr.get cam).touch t) o) := by
  unfold receive at h
  obtain rfl := (Host.Outcome.next.inj h).symm
  rw [Receiver.touch_qual, Receiver.touch_openFrame]
  split
  case isFalse => exact .inl rfl
  case isTrue hq =>
    cases ho : (s.cr.get cam).openFrame with
    | none => exact .inl rfl
    | some o =>
      dsimp only
      split
      case isTrue hf => exact .inr ⟨o, hq, rfl, Option.isNone_iff_eq_none.mp hf, rfl⟩
      case isFalse => exact .inl rfl

theorem effect_info (touched : TouchedRule Q) (info : InfoRule Q) (h : execInfo t cam p s = .next s') : Q
    (.info t cam p) s s' := by
  rcases receive_next h with rfl | ⟨o, hq, ho, hf, rfl⟩
  · exact touched cam rfl rfl
  · exact info o hq ho hf

theorem effect_line (touched : TouchedRule Q) (line : LineRule Q) (h : execLine t cam p s = .next s') : Q
    (.line t cam p) s s' := by
  rcases receive_next h with rfl | ⟨o, hq, ho, hf, rfl⟩
  · exact touched cam rfl rfl
  · exact line o hq ho hf

theorem effect_foreign (elapsed : ElapsedRule Q) (touched : TouchedRule Q) (foreign : ForeignRule Q) {y : Byte} (h
    : execForeignPacket t cam y p s = .next s') :
    Q (.foreignPacket t cam y p) s s' := by
  unfold execForeignPacket at h
  split at h
  case isFalse => cases h; exact elapsed rfl
  case isTrue =>
    rcases receive_next h with rfl | ⟨o, hq, ho, hf, rfl⟩
    · exact touched cam rfl rfl
    · exact foreign o hq ho hf

theorem effect_frameClose (touched : TouchedRule Q) (closesBad : ClosesBadRule Q) (closesGood : ClosesGoodRule Q) (h
    : execFrameClose t cam p s = .next s') : Q (.frameClose t cam p) s s' := by
  unfold execFrameClose at h
  dsimp only at h
  rw [Receiver.touch_qual, Receiver.touch_openFrame, Receiver.touch_height] at h
  by_cases hq : (s.cr.get cam).qual.timed = true
  · rw [if_pos hq] at h
    cases ho : (s.cr.get cam).openFrame with
    | none => rw [ho] at h; cases h; exact touched cam rfl rfl
    | some f =>
      rw [ho] at h
      dsimp only at h
      cases hx : judgeFrame f (s.cr.get cam).height t with
      | inl x => rw [hx] at h; cases h; exact closesBad f x hq ho hx
      | inr i => rw [hx] at h; cases h; exact closesGood f i hq ho hx
  · rw [if_neg hq] at h
    cases h
    exact touched cam rfl rfl

theorem effect_silence (elapsed : ElapsedRule Q) (silenced : SilencedRule Q) (silent : SilentRule Q) (h
    : execSilenceExpiry t cam s = .next s') : Q (.silenceExpiry t cam) s s' := by
  unfold execSilenceExpiry at h
  dsimp only at h
  split at h
  case isFalse => cases h; exact elapsed rfl
  case isTrue hdue =>
    split at h
    case isTrue hq => cases h; exact silenced _ hq
    case isFalse hq =>
      cases h
      refine (silent ?_)
      revert hdue hq
      cases (s.cr.get cam).qual <;> simp [Qual.timed, Qual.qualified]

/-- What a ring request can do: nothing but the time, or the head of its write FIFO is worked. -/
theorem applyRequest_next {op : FifoEntry → Option (Ring → Ring)} (h : applyRequest cam t op s = .next s') :
    s' = s.arrive t ∨ ∃ e rest f, (s.cr.get cam).fifo = e :: rest ∧ op e = some f ∧
      s' = (((s.arrive t).setReceiver cam { s.cr.get cam with fifo := rest }).setRing cam (f (s.fmc.rings.get cam))) := by
  unfold applyRequest at h
  cases hf : (s.cr.get cam).fifo with
  | nil => rw [hf] at h; cases h; exact .inl rfl
  | cons e rest =>
    rw [hf] at h
    dsimp only at h
    cases he : op e with
    | none => rw [he] at h; cases h; exact .inl rfl
    | some f => rw [he] at h; cases h; exact .inr ⟨e, rest, f, rfl, he, rfl⟩

theorem effect_openRequest (elapsed : ElapsedRule Q) (openRequest : OpenRequestRule Q) (h
    : execOpenRequest t cam s = .next s') : Q (.openRequest t cam) s s' := by
  rcases applyRequest_next h with rfl | ⟨e, rest, f, hf, he, rfl⟩
  · exact elapsed rfl
  · obtain ⟨rfl, he⟩ := Option.ite_none_right_eq_some.mp he
    cases he
    exact openRequest rest hf

theorem effect_abandonRequest (elapsed : ElapsedRule Q) (abandonRequest : AbandonRequestRule Q) (h
    : execAbandonRequest t cam s = .next s') : Q (.abandonRequest t cam) s s' := by
  rcases applyRequest_next h with rfl | ⟨e, rest, f, hf, he, rfl⟩
  · exact elapsed rfl
  · obtain ⟨rfl, he⟩ := Option.ite_none_right_eq_some.mp he
    cases he
    exact abandonRequest rest hf

theorem effect_publishRequest (elapsed : ElapsedRule Q) (publishRequest : PublishRequestRule Q) (h
    : execPublishRequest t cam s = .next s') : Q (.publishRequest t cam) s s' := by
  rcases applyRequest_next h with rfl | ⟨e, rest, f, hf, he, rfl⟩
  · exact elapsed rfl
  · cases e with
    | publishReq close n => cases he; exact publishRequest close n rest hf
    | line | openReq | abandonReq | dropReadyReq => cases he

theorem effect_dropReadyRequest (elapsed : ElapsedRule Q) (dropReadyRequest : DropReadyRequestRule Q) (h
    : execDropReadyRequest t cam s = .next s') : Q (.dropReadyRequest t cam) s s' := by
  rcases applyRequest_next h with rfl | ⟨e, rest, f, hf, he, rfl⟩
  · exact elapsed rfl
  · obtain ⟨rfl, he⟩ := Option.ite_none_right_eq_some.mp he
    cases he
    exact dropReadyRequest rest hf

theorem effect_grant (elapsed : ElapsedRule Q) (writerGrant : WriterGrantRule Q) (tapsGrant : TapsGrantRule Q) {ask
    : Camera} (h : execArbiterGrant t ask s = .next s') : Q (.arbiterGrant t ask) s s' := by
  unfold execArbiterGrant at h
  split at h
  case isFalse => cases h; exact elapsed rfl
  case isTrue hfree =>
    obtain ⟨hs, ht⟩ := Bool.and_eq_true_iff.mp hfree
    rw [Option.isNone_iff_eq_none] at ht
    cases hc : nextWriter s.cr s.fmc.lastServed with
    | some c => rw [hc] at h; cases h; exact writerGrant c hs ht hc
    | none =>
      rw [hc] at h
      dsimp only at h
      split at h
      case h_1 => cases h; exact (tapsGrant _ hs ht fun _ he => nomatch he)
      case h_2 => cases h; exact elapsed rfl

theorem effect_written (elapsed : ElapsedRule Q) (written : WrittenRule Q) (dropped : DroppedRule Q) (h
    : execWriterTransferComplete t s = .next s') : Q (.writerTransferComplete t) s s' := by
  unfold execWriterTransferComplete at h
  split at h
  case h_2 => cases h; exact elapsed rfl
  case h_1 c ht =>
    split at h
    case h_1 k off bytes hc => cases h; exact written c k off bytes ht hc
    case h_2 => cases h; exact dropped c ht

theorem effect_read (elapsed : ElapsedRule Q) (read : ReadRule Q) {ups : List (Nat × WordError)} (h
    : execCompositionTransferComplete t ups s = .next s') :
    Q (.compositionTransferComplete t ups) s s' := by
  unfold execCompositionTransferComplete at h
  split at h
  case h_1 ht => cases h; exact read _ _ _ _ _ _ _ _ _ _ ht
  case h_2 => cases h; exact elapsed rfl

theorem effect_lineComplete (elapsed : ElapsedRule Q) (lineComplete : LineCompleteRule Q) (h
    : execLineComplete t s = .next s') : Q (.lineComplete t) s s' := by
  unfold execLineComplete at h
  split at h
  case isTrue hl => cases h; exact lineComplete hl.1 hl.2.1 hl.2.2
  case isFalse => cases h; exact elapsed rfl

theorem effect_frameStart (elapsed : ElapsedRule Q) (frameStart : FrameStartRule Q) (h
    : execOutputFrameStart t s = .next s') : Q (.outputFrameStart t) s s' := by
  unfold execOutputFrameStart at h
  split at h
  case isTrue hs => cases h; exact frameStart hs.1 hs.2.1 hs.2.2
  case isFalse => cases h; exact elapsed rfl

theorem effect_linePeriod (elapsed : ElapsedRule Q) (blank : BlankRule Q) (active : ActiveRule Q) (h
    : execLinePeriodStart t s = .next s') : Q (.linePeriodStart t) s s' := by
  unfold execLinePeriodStart at h
  split at h
  case isFalse => cases h; exact elapsed rfl
  case isTrue hdue =>
    dsimp only at h
    split at h
    · cases h; exact active _ hdue
    · cases h; exact blank hdue

theorem effect_frameEnd (elapsed : ElapsedRule Q) (frameEnd : FrameEndRule Q) (h : execFrameEnd t s = .next s') : Q
    (.frameEnd t) s s' := by
  unfold execFrameEnd at h
  split at h
  case h_2 => cases h; exact elapsed rfl
  case h_1 set hset =>
    split at h
    case isTrue he => cases h; exact frameEnd set hset he.1
    case isFalse => cases h; exact elapsed rfl

end

end

/-- What holds of every outcome that a command can have holds of every command: its stamp and nothing else, an answered
request, or an event. -/
theorem exec_rules {W Q : Relation} {c : Instr} {s s' : State}
    (nothing : delta% NothingRule W) (start : delta% StartRule W) (stopping : delta% StoppingRule W)
    (stop : delta% StopRule W) (initialise : delta% InitialiseRule W) (restart : delta% RestartRule W)
    (timing : delta% TimingRule W) (descriptor : delta% DescriptorRule W) (enable : delta% EnableRule W)
    (disable : delta% DisableRule W) (reset : delta% ResetRule W) (clear : delta% ClearRule W)
    (load : delta% LoadRule W) (select : delta% SelectRule W) (reselect : delta% ReselectRule W)
    (withdraw : delta% WithdrawRule W) (zone : delta% ZoneRule W) (body : delta% BodyRule W)
    (fill : delta% FillRule W) (harmonise : delta% HarmoniseRule W) (gain : delta% GainRule W)
    (clearFaults : delta% ClearFaultsRule W) (faultPolicy : delta% FaultPolicyRule W) (fetch : delta% FetchRule W)
    (noticePolicy : delta% NoticePolicyRule W) (elapsed : delta% ElapsedRule Q)
    (answered : delta% AnsweredRule W Q) (powerOn : delta% PowerOnRule Q) (trained : delta% TrainedRule Q)
    (untrained : delta% UntrainedRule Q) (filled : delta% FilledRule Q) (byte : delta% ByteRule Q)
    (gap : delta% GapRule Q) (sent : delta% SentRule Q) (unknown : delta% UnknownRule Q)
    (closeView : delta% CloseViewRule Q) (scanned : delta% ScannedRule Q) (unscanned : delta% UnscannedRule Q)
    (acquires : delta% AcquiresRule Q) (opens : delta% OpensRule Q) (reopens : delta% ReopensRule Q)
    (touched : delta% TouchedRule Q) (info : delta% InfoRule Q) (line : delta% LineRule Q)
    (foreign : delta% ForeignRule Q) (closesBad : delta% ClosesBadRule Q) (closesGood : delta% ClosesGoodRule Q)
    (silenced : delta% SilencedRule Q) (silent : delta% SilentRule Q) (openRequest : delta% OpenRequestRule Q)
    (abandonRequest : delta% AbandonRequestRule Q) (publishRequest : delta% PublishRequestRule Q)
    (dropReadyRequest : delta% DropReadyRequestRule Q) (writerGrant : delta% WriterGrantRule Q)
    (tapsGrant : delta% TapsGrantRule Q) (written : delta% WrittenRule Q) (dropped : delta% DroppedRule Q)
    (read : delta% ReadRule Q) (lineComplete : delta% LineCompleteRule Q) (frameStart : delta% FrameStartRule Q)
    (blank : delta% BlankRule Q) (active : delta% ActiveRule Q) (frameEnd : delta% FrameEndRule Q)
    (h : exec c s = .next s') : Q c s s' := by
  cases c with
  | powerOn a b => cases h; exact powerOn a b
  | trainingComplete => exact effect_training elapsed trained untrained h
  | fillComplete => exact effect_fill elapsed filled h
  | byteArrival t b stop =>
    cases stop <;> cases h
    · exact elapsed rfl
    · exact byte
  | gapExpiry t =>
    change execGapExpiry t s = _ at h
    unfold execGapExpiry at h
    split at h <;> cases h
    · exact gap
    · exact elapsed rfl
  | replySent => cases h; exact sent
  | unknownKind t k g p =>
    change execUnknownKind t k g p s = _ at h
    unfold execUnknownKind at h
    split at h
    · cases h; exact elapsed rfl
    · rcases serve_next h with rfl | ⟨rest, ha, rfl⟩
      · exact elapsed rfl
      · exact unknown ha
  | identify | getStatus =>
    exact effect_of_serve elapsed answered closeView rfl rfl nofun h fun w =>
      works_whenLength nothing (works_report nothing _ w _)
  | start => exact effect_of_serve elapsed answered closeView rfl rfl nofun h fun w => works_start nothing start
  | stop => exact effect_of_serve elapsed answered closeView rfl rfl nofun h fun w =>
      works_stop nothing stopping stop
  | restart => exact effect_of_serve elapsed answered closeView rfl rfl nofun h fun w =>
      works_restart nothing initialise restart
  | setTiming => exact effect_of_serve elapsed answered closeView rfl rfl nofun h fun w =>
      works_setTiming nothing timing
  | setCamera => exact effect_of_serve elapsed answered closeView rfl rfl nofun h fun w =>
      works_setCamera nothing descriptor
  | enableCamera => exact effect_of_serve elapsed answered closeView rfl rfl nofun h fun w =>
      works_enableCamera nothing enable
  | disableCamera => exact effect_of_serve elapsed answered closeView rfl rfl nofun h fun w =>
      works_disableCamera nothing disable
  | resetCamera => exact effect_of_serve elapsed answered closeView rfl rfl nofun h fun w =>
      works_resetCamera nothing reset
  | getCamera =>
    exact effect_of_serve elapsed answered closeView rfl rfl nofun h fun w =>
      works_whenReady nothing fun _ => works_whenLength nothing
        (works_withIndex nothing fun _ _ => works_report nothing _ w _)
  | clearView => exact effect_of_serve elapsed answered closeView rfl rfl nofun h fun w =>
      works_clearView nothing clear
  | loadNodes => exact effect_of_serve elapsed answered closeView rfl rfl nofun h fun w =>
      works_loadNodes nothing load
  | closeView =>
    exact effect_of_serve elapsed answered closeView rfl rfl (fun _ _ _ he => by cases he; rfl) h fun w =>
      works_closeView nothing
  | scanComplete => exact effect_scan elapsed scanned unscanned h
  | selectView t g p =>
    change execSelectView t g p s = _ at h
    unfold execSelectView at h
    split at h
    · cases h; exact elapsed rfl
    · exact effect_of_serve elapsed answered closeView rfl rfl nofun h fun w =>
      works_selectView nothing select reselect
  | selectViewNone t g p =>
    change execSelectViewNone t g p s = _ at h
    unfold execSelectViewNone at h
    split at h
    · exact effect_of_serve elapsed answered closeView rfl rfl nofun h fun w =>
      works_selectViewNone nothing withdraw
    · cases h; exact elapsed rfl
  | readNodes => exact effect_of_serve elapsed answered closeView rfl rfl nofun h fun w =>
      works_readNodes nothing
  | setZone => exact effect_of_serve elapsed answered closeView rfl rfl nofun h fun w =>
      works_setZone nothing zone
  | setBody => exact effect_of_serve elapsed answered closeView rfl rfl nofun h fun w =>
      works_setBody nothing body
  | setFill => exact effect_of_serve elapsed answered closeView rfl rfl nofun h fun w =>
      works_setFill nothing fill
  | setHarmonise => exact effect_of_serve elapsed answered closeView rfl rfl nofun h fun w =>
      works_setHarmonise nothing harmonise
  | setGain => exact effect_of_serve elapsed answered closeView rfl rfl nofun h fun w =>
      works_setGain nothing gain
  | getFaults =>
    exact effect_of_serve elapsed answered closeView rfl rfl nofun h fun w =>
      works_whenReady nothing fun _ => works_whenLength nothing (works_report nothing _ w _)
  | clearFaults => exact effect_of_serve elapsed answered closeView rfl rfl nofun h fun w =>
      works_clearFaults nothing clearFaults
  | setFaultPolicy => exact effect_of_serve elapsed answered closeView rfl rfl nofun h fun w =>
      works_setFaultPolicy nothing faultPolicy
  | fetchNotices => exact effect_of_serve elapsed answered closeView rfl rfl nofun h fun w =>
      works_fetchNotices nothing fetch
  | setNoticePolicy => exact effect_of_serve elapsed answered closeView rfl rfl nofun h fun w =>
      works_setNoticePolicy nothing noticePolicy
  | getHistory => exact effect_of_serve elapsed answered closeView rfl rfl nofun h fun w =>
      works_getHistory nothing
  | frameOpen => exact effect_frameOpen elapsed acquires opens reopens h
  | info => exact effect_info touched info h
  | line => exact effect_line touched line h
  | foreignPacket => exact effect_foreign elapsed touched foreign h
  | frameClose => exact effect_frameClose touched closesBad closesGood h
  | silenceExpiry => exact effect_silence elapsed silenced silent h
  | openRequest => exact effect_openRequest elapsed openRequest h
  | abandonRequest => exact effect_abandonRequest elapsed abandonRequest h
  | publishRequest => exact effect_publishRequest elapsed publishRequest h
  | dropReadyRequest => exact effect_dropReadyRequest elapsed dropReadyRequest h
  | arbiterGrant => exact effect_grant elapsed writerGrant tapsGrant h
  | writerTransferComplete => exact effect_written elapsed written dropped h
  | compositionTransferComplete => exact effect_read elapsed read h
  | lineComplete => exact effect_lineComplete elapsed lineComplete h
  | outputFrameStart => exact effect_frameStart elapsed frameStart h
  | linePeriodStart => exact effect_linePeriod elapsed blank active h
  | frameEnd => exact effect_frameEnd elapsed frameEnd h

end Sys2Proof.Machine
end

section
set_option deprecated.oldSectionVars true -- proofs in sequence: their tasks would not fit the thread limit
/-! How a law is carried through every command by the rules, and the law of the frame rings (R95). -/
namespace Sys2Proof.Machine

/-- A law that every command, the passing of a microsecond and the queue keep is kept by every step. -/
theorem keeps_of_exec {P : State → Prop} (htime : ∀ s t, P s → P (s.setTimebase t))
    (hqueue : ∀ s l, P s → P (s.setPending l)) (hexec : ∀ c s s', P s → exec c s = .next s' → P s') : Keeps P := by
  intro s s' hP h
  unfold step at h
  split at h
  · cases h; exact htime s _ hP
  · exact hexec _ _ _ (hqueue s _ hP) h

/-! ### Lawful rings -/

/-- At most one member of a trio has a property exactly when any two that have it are the same. -/
theorem Trio.countP_le_one_iff {α : Type} (q : Trio α) (p : α → Bool) :
    q.toList.countP p ≤ 1 ↔ ∀ i j, p (q.get i) = true → p (q.get j) = true → i = j := by
  have hcount : q.toList.countP p = (p q.s0).toNat + (p q.s1).toNat + (p q.s2).toNat := by
    simp only [Trio.toList, List.countP_cons, List.countP_nil]
    cases p q.s0 <;> cases p q.s1 <;> cases p q.s2 <;> rfl
  have hall : (∀ i j, p (q.get i) = true → p (q.get j) = true → i = j) ↔
      ¬(p q.s0 ∧ p q.s1) ∧ ¬(p q.s0 ∧ p q.s2) ∧ ¬(p q.s1 ∧ p q.s2) := by
    constructor
    · exact fun h => ⟨fun ⟨a, b⟩ => absurd (h 0 1 a b) (by decide), fun ⟨a, b⟩ => absurd (h 0 2 a b) (by decide),
        fun ⟨a, b⟩ => absurd (h 1 2 a b) (by decide)⟩
    · rintro ⟨h01, h02, h12⟩ i j hi hj
      match i, j with
      | 0, 0 | 1, 1 | 2, 2 => rfl
      | 0, 1 => exact absurd ⟨hi, hj⟩ h01
      | 1, 0 => exact absurd ⟨hj, hi⟩ h01
      | 0, 2 => exact absurd ⟨hi, hj⟩ h02
      | 2, 0 => exact absurd ⟨hj, hi⟩ h02
      | 1, 2 => exact absurd ⟨hi, hj⟩ h12
      | 2, 1 => exact absurd ⟨hj, hi⟩ h12
  rw [hcount, hall]
  cases p q.s0 <;> cases p q.s1 <;> cases p q.s2 <;> simp

theorem Ring.lawful_iff (r : Ring) :
    Ring.lawful r ↔
      (∀ i j, (r.get i).isFilling = true → (r.get j).isFilling = true → i = j) ∧
      (∀ i j, (r.get i).isReady = true → (r.get j).isReady = true → i = j) ∧
      ∀ i j, (r.get i).isHeld = true → (r.get j).isHeld = true → i = j :=
  ⟨fun h => ⟨(r.countP_le_one_iff _).mp h.filling, (r.countP_le_one_iff _).mp h.ready, (r.countP_le_one_iff _).mp h.held⟩,
    fun h => ⟨(r.countP_le_one_iff _).mpr h.1, (r.countP_le_one_iff _).mpr h.2.1, (r.countP_le_one_iff _).mpr h.2.2⟩⟩

/-- A ring in which no slot has come to be FILLING, READY or HELD is lawful as before. -/
theorem Ring.lawful.of_imp {r r' : Ring} (h : Ring.lawful r)
    (hslots : ∀ i, ((r'.get i).isFilling = true → (r.get i).isFilling = true) ∧
      ((r'.get i).isReady = true → (r.get i).isReady = true) ∧ ((r'.get i).isHeld = true → (r.get i).isHeld = true)) :
    Ring.lawful r' := by
  obtain ⟨hf, hr, hh⟩ := (Ring.lawful_iff r).mp h
  exact (Ring.lawful_iff r').mpr
    ⟨fun i j hi hj => hf i j ((hslots i).1 hi) ((hslots j).1 hj),
      fun i j hi hj => hr i j ((hslots i).2.1 hi) ((hslots j).2.1 hj),
      fun i j hi hj => hh i j ((hslots i).2.2 hi) ((hslots j).2.2 hj)⟩

theorem Ring.lawful.freeWhere {r : Ring} (h : Ring.lawful r) (p : SlotRecord → Bool) :
    Ring.lawful (freeWhere p r) := by
  refine h.of_imp fun i => ?_
  rw [freeWhere_get]
  split
  · exact ⟨nofun, nofun, nofun⟩
  · exact ⟨id, id, id⟩

theorem Ring.lawful.release {r : Ring} (h : Ring.lawful r) : Ring.lawful (ringRelease r) := by
  refine (h.freeWhere fun x => x.isFilling || x.isReady).of_imp fun i => ?_
  rw [ringRelease, Trio.get_map]
  cases Trio.get (Machine.freeWhere (fun x => x.isFilling || x.isReady) r) i with
  | free | filling | ready => exact ⟨id, id, id⟩
  | held => exact ⟨nofun, nofun, fun _ => rfl⟩

theorem Ring.lawful.poison {r : Ring} (h : Ring.lawful r) (i : Fin 3) : Ring.lawful (ringPoison r i) := by
  refine h.of_imp fun j => ?_
  rw [ringPoison_get]
  cases Trio.get r j with
  | free | filling | ready => exact ⟨id, id, id⟩
  | held => dsimp only; split <;> exact ⟨nofun, nofun, fun _ => rfl⟩

theorem Ring.lawful.opened {r : Ring} (h : Ring.lawful r) (t : Stamp) : Ring.lawful (ringOpen r t) := by
  obtain ⟨hf, hr, hh⟩ := (Ring.lawful_iff r).mp h
  have key : ∀ i, (∀ j, (r.get j).isFilling = true → j = i) → Ring.lawful (Trio.set r i (.filling t)) := by
    intro i hi
    rw [Ring.lawful_iff]
    simp only [Trio.get_set]
    grind [SlotRecord.isReady_filling, SlotRecord.isHeld_filling]
  rcases ringOpen_cases r t with ⟨i, hi, he⟩ | ⟨i, hn, -, he⟩ | ⟨-, -, he⟩ <;> rw [he]
  · exact key i fun j hj => hf j i hj (Trio.find_some hi).1
  · exact key i fun j hj => absurd hj (by simp [Trio.find_none.mp hn j])
  · exact h

theorem Ring.lawful.published {r : Ring} (h : Ring.lawful r) (close : Stamp) (n : Half) :
    Ring.lawful (ringPublish r close n) := by
  rcases ringPublish_cases r close n with ⟨-, he⟩ | ⟨i, o, -, -, he⟩ <;> rw [he]
  · exact h
  · obtain ⟨hf, hr, hh⟩ := (Ring.lawful_iff r).mp h
    rw [Ring.lawful_iff]
    simp only [Trio.get_set, freeWhere_get]
    grind [SlotRecord.isFilling_ready, SlotRecord.isHeld_ready, SlotRecord.isFilling_free, SlotRecord.isHeld_free,
      SlotRecord.isReady_free]

/-- The slot that a take makes HELD is the only one: the take has freed the others (R102). -/
theorem Ring.lawful.took {r : Ring} (h : Ring.lawful r) (composable : Bool) (t : Stamp) (maxAge : Nat) :
    Ring.lawful (ringTake r composable t maxAge).1 := by
  have hstop : Ring.lawful (ringStop r) := h.freeWhere SlotRecord.isHeld
  rcases ringTake_cases r composable t maxAge with ⟨-, he⟩ | ⟨i, o, c, n, -, -, -, -, he⟩ | ⟨_, _, _, _, -, -, -, -, he⟩ |
    ⟨_, _, _, _, -, -, -, -, -, he⟩ | ⟨_, _, _, _, -, -, -, -, -, he⟩ | ⟨-, -, -, he⟩ <;> rw [he]
  case inr.inl =>
    obtain ⟨hf, hr, hh⟩ := (Ring.lawful_iff r).mp h
    rw [Ring.lawful_iff]
    simp only [Trio.get_set, ringStop, freeWhere_get]
    grind [SlotRecord.isFilling_held, SlotRecord.isReady_held, SlotRecord.isFilling_free, SlotRecord.isHeld_free,
      SlotRecord.isReady_free]
  case inr.inr.inr.inl => exact h
  all_goals exact hstop

/-! ### The rings under every command -/

theorem Ring.lawful.all_free : Ring.lawful (Trio.all .free) := ⟨by decide, by decide, by decide⟩

@[simp] theorem FMC.store_rings (m : FMC) (c : Camera) (row off : Nat) (bytes : List Byte) :
    (m.store c row off bytes).rings = m.rings := by
  unfold FMC.store; split <;> rfl

@[simp] theorem State.cutWriter_rings (s : State) (c : Camera) : (s.cutWriter c).fmc.rings = s.fmc.rings := by
  unfold State.cutWriter
  split
  · split
    · exact FMC.store_rings ..
    · rfl
  · rfl

@[simp] theorem State.releaseRing_rings (s : State) (c : Camera) :
    (s.releaseRing c).fmc.rings = s.fmc.rings.set c (ringRelease (s.fmc.rings.get c)) := by
  simp [State.releaseRing]

@[simp] theorem State.emitLine_rings (s : State) (k : Nat) (t : Stamp) : (s.emitLine k t).fmc.rings = s.fmc.rings := by
  rw [State.emitLine_fmc]

@[simp] theorem State.stopOutput_rings (s : State) (t : Stamp) :
    (s.stopOutput t).fmc.rings = s.fmc.rings.map ringStop := rfl

theorem State.endFrame_rings (s : State) (set : CompSet) (t : Stamp) :
    (s.endFrame set t).fmc.rings = if s.pu.run = .stopping then s.fmc.rings.map ringStop else s.fmc.rings := by
  unfold State.endFrame
  dsimp only
  split <;> rfl

theorem State.startFrame_rings (s : State) (t : Stamp) (c : Camera) :
    (s.startFrame t).fmc.rings.get c = (s.takeAtStart t c).1 := s.startFrame_ring t c

theorem ringsLawful_of_exec {c : Instr} {s s' : State} (h : exec c s = .next s') : s.ringsLawful → s'.ringsLawful := by
  apply exec_rules (h := h) (W := fun _ s w => s.ringsLawful → w.ringsLawful)
    (Q := fun _ s s' => s.ringsLawful → s'.ringsLawful)
  case answered => exact fun _ _ hw _ h => hw h
  case stop => exact fun _ _ h c => by simpa [ringStop] using (h c).freeWhere SlotRecord.isHeld
  case restart => exact fun _ _ c => by simpa [State.restart] using Ring.lawful.all_free
  case disable => exact fun cam _ _ h c => by simpa using Quad.forall_set h (h cam).release c
  case reset => exact fun cam _ _ h c => by simpa using Quad.forall_set h (h cam).release c
  case powerOn => exact fun _ _ _ c => by simpa [State.reset, FMC.reset] using Ring.lawful.all_free
  case openRequest => exact fun _ _ h => Quad.forall_set h ((h _).opened _)
  case abandonRequest => exact fun _ _ h => Quad.forall_set h ((h _).freeWhere _)
  case publishRequest => exact fun close n _ _ h => Quad.forall_set h ((h _).published close n)
  case dropReadyRequest => exact fun _ _ h => Quad.forall_set h ((h _).freeWhere _)
  case read =>
    intro t ups s c slot n no k x u v w h' _ h d
    obtain ⟨errors, he | he⟩ := State.completeTaps_fmc (s.arrive t) t c slot n ups no k x u v w h' <;> rw [he]
    · exact h d
    · exact Quad.forall_set h ((h c).poison slot) d
  case frameStart =>
    intro t s _ _ _ h d
    rw [State.startFrame_rings]
    exact (h d).took _ _ _
  case frameEnd =>
    intro t s set _ _ h d
    rw [State.endFrame_rings]
    split
    · simpa [ringStop] using (h d).freeWhere SlotRecord.isHeld
    · exact h d
  case reopens =>
    rintro t cam p s f x s1 - - - rfl h d
    simpa using h d
  all_goals
    intros
    rename_i h
    intro d
    simpa using h d

end Sys2Proof.Machine

namespace Sys2Proof.Proofs
open Sys2Proof Sys2Proof.Machine

/-- Settles O3: every command changes the rings by the ring operations alone, and each of them keeps the law of R95. -/
theorem ringLawKept : Obligations.RingLawKept :=
  keeps_of_exec (fun _ _ h => h) (fun _ _ h => h) fun _ _ _ h he => ringsLawful_of_exec he h

end Sys2Proof.Proofs
end

section
set_option deprecated.oldSectionVars true -- proofs in sequence: their tasks would not fit the thread limit
/-! The law of the camera ports (R55, R57, R66, R70, R76): each piece of a receiver's work keeps it. -/
namespace Sys2Proof.Machine

/-! ### What closes do to the receivers -/

@[simp] theorem State.closeBad_cr (s : State) (c : Camera) (f : OpenFrame) (x : Failure) (t : Stamp) :
    (s.closeBad c f x t).cr =
      s.cr.set c ((s.cr.get c).closeBad x
        (judgeBad (s.cr.get c).qual (s.cr.get c).badRun (((s.cr.get c).descriptor.map Descriptor.lose).getD 0))) := by
  unfold State.closeBad
  dsimp only
  split <;> simp

@[simp] theorem State.closeGood_cr (s : State) (c : Camera) (i : Info) (t : Stamp) :
    (s.closeGood c i t).cr =
      s.cr.set c ((s.cr.get c).closeGood i
        (judgeGood (s.cr.get c).qual (s.cr.get c).goodRun (s.cr.get c).badRun
          (((s.cr.get c).descriptor.map Descriptor.acquire).getD 0)) t) := by
  unfold State.closeGood
  dsimp only
  split <;> split <;> simp

/-! ### The law -/

section
variable {r r' : Receiver}

/-- The two receivers have one descriptor, one qualification state, the same runs, and have published alike. -/
def Receiver.TimedAlike (r r' : Receiver) : Prop :=
  r'.descriptor = r.descriptor ∧ r'.qual = r.qual ∧ r'.goodRun = r.goodRun ∧ r'.badRun = r.badRun ∧ r'.bprev = r.bprev ∧
  r'.lastPublished = r.lastPublished

/-- A port that has left NO_SIGNAL is lawful by its descriptor, its runs and what it has published. -/
theorem Receiver.lawful.timedAlike (h : r.lawful) (hq : r.qual.timed = true) (ha : r.TimedAlike r') : r'.lawful := by
  obtain ⟨hd, hquals⟩ := h
  obtain ⟨ed, eq, eg, eb, ep, el⟩ := ha
  unfold Receiver.lawful
  rw [ed, eq, eg, eb, ep, el]
  refine ⟨hd, ?_⟩
  cases he : r.qual with
  | disabled | noSignal => rw [he] at hq; cases hq
  | acquiring | locked | holdover =>
    rw [he] at hquals
    cases hr : r.descriptor <;> rw [hr] at hquals <;> exact hquals

theorem Receiver.lawful.touch (h : r.lawful) (t : Stamp) : (r.touch t).lawful := by
  unfold Receiver.touch
  split
  case isTrue hq => exact h.timedAlike hq ⟨rfl, rfl, rfl, rfl, rfl, rfl⟩
  case isFalse => exact h

/-- An enabled port has a descriptor, and it is in range (R55). -/
theorem Receiver.lawful.descriptor (h : r.lawful) (hq : r.qual ≠ .disabled) :
    ∃ d, r.descriptor = some d ∧ d.inRange = true := by
  obtain ⟨hd, hquals⟩ := h
  cases he : r.descriptor with
  | some d => exact ⟨d, rfl, hd d he⟩
  | none =>
    rw [he] at hquals
    cases heq : r.qual with
    | disabled => exact absurd heq hq
    | noSignal | acquiring | locked | holdover => rw [heq] at hquals; exact hquals.elim

theorem Receiver.lawful.disabled (h : r.lawful) (hq : r.qual = .disabled) :
    r.goodRun = 0 ∧ r.badRun = 0 ∧ r.openFrame = none ∧ r.prevOpen = none ∧ r.bprev = none ∧ r.lastPublished = none ∧
    r.fifo = [] := by
  have := h.2
  rw [hq] at this
  exact this

theorem Receiver.lawful_of_disabled (hd : ∀ d, r.descriptor = some d → d.inRange = true) (hq : r.qual = .disabled)
    (h : r.goodRun = 0 ∧ r.badRun = 0 ∧ r.openFrame = none ∧ r.prevOpen = none ∧ r.bprev = none ∧
      r.lastPublished = none ∧ r.fifo = []) : r.lawful :=
  ⟨hd, by rw [hq]; exact h⟩

theorem Receiver.lawful_of_noSignal {d : Descriptor} (hd : r.descriptor = some d) (hr : d.inRange = true)
    (hq : r.qual = .noSignal)
    (h : r.goodRun = 0 ∧ r.badRun = 0 ∧ r.openFrame = none ∧ r.prevOpen = none ∧ r.bprev = none ∧
      r.lastPublished = none) : r.lawful := by
  refine ⟨fun d' hd' => ?_, by rw [hq, hd]; exact h⟩
  rw [hd] at hd'
  exact Option.some.inj hd' ▸ hr

theorem Receiver.lawful.disable (h : r.lawful) : r.disable.lawful :=
  Receiver.lawful_of_disabled h.1 rfl ⟨rfl, rfl, rfl, rfl, rfl, rfl, rfl⟩

theorem Receiver.lawful.restart (h : r.lawful) : r.restart.lawful := by
  by_cases hq : r.qual = .disabled
  · exact Receiver.lawful_of_disabled h.1 (if_neg (Qual.enabled_eq_false hq)) ⟨rfl, rfl, rfl, rfl, rfl, rfl, rfl⟩
  · obtain ⟨d, hd, hr⟩ := h.descriptor hq
    exact Receiver.lawful_of_noSignal hd hr (if_pos ((Qual.enabled_iff _).mpr hq)) ⟨rfl, rfl, rfl, rfl, rfl, rfl⟩

theorem Receiver.lawful.silence (h : r.lawful) (hq : r.qual ≠ .disabled) : r.silence.lawful := by
  obtain ⟨d, hd, hr⟩ := h.descriptor hq
  exact Receiver.lawful_of_noSignal hd hr rfl ⟨rfl, rfl, rfl, rfl, rfl, rfl⟩

/-- Both counts of a descriptor in range are at least one (R55). -/
theorem Descriptor.counts_pos {d : Descriptor} (h : d.inRange = true) : 1 ≤ d.acquire ∧ 1 ≤ d.lose := by
  simp only [Descriptor.inRange, Bool.and_eq_true, decide_eq_true_eq] at h
  omega

theorem Receiver.lawful.acquire (h : r.lawful) (hq : r.qual = .noSignal) (t : Stamp) : (r.acquire t).lawful := by
  obtain ⟨d, hd, hr⟩ := h.descriptor (by simp [hq])
  have hpos := (Descriptor.counts_pos hr).1
  exact ⟨h.1, by dsimp only [Receiver.acquire]; rw [hd]; exact ⟨by omega, rfl, rfl, rfl⟩⟩

theorem Receiver.lawful.beginFrame (h : r.lawful) (hq : r.qual.timed = true) (t : Stamp) : (r.beginFrame t).lawful :=
  h.timedAlike hq ⟨rfl, rfl, rfl, rfl, rfl, rfl⟩

theorem Receiver.lawful.fail (h : r.lawful) (hq : r.qual.timed = true) (f : OpenFrame) (k : FaultKind) (t : Stamp)
    (line : Option Nat) : (r.fail f k t line).lawful :=
  h.timedAlike hq ⟨rfl, rfl, rfl, rfl, rfl, rfl⟩

/-- What an INFO does: the frame fails, or holds the INFO. -/
theorem Receiver.takeInfo_cases (r : Receiver) (f : OpenFrame) (p : List Byte) (t : Stamp) :
    (∃ k line, r.takeInfo f p t = r.fail f k t line) ∨
    r.takeInfo f p t = { r with openFrame := some { f with info := some (infoOf p) } } := by
  unfold Receiver.takeInfo
  split
  · exact .inl ⟨_, _, rfl⟩
  · split
    · exact .inr rfl
    · exact .inl ⟨_, _, rfl⟩

/-- What a LINE does: the frame fails, or the line takes one of the two places of the write FIFO. -/
theorem Receiver.takeLine_cases (r : Receiver) (f : OpenFrame) (p : List Byte) (t : Stamp) :
    (∃ k line, r.takeLine f p t = r.fail f k t line) ∨
    (lineEntries r.fifo < 2 ∧ p.length - 2 = 2 * r.width ∧
      r.takeLine f p t =
        { r with openFrame := some { f with next := f.next + 1 }
                 fifo := r.fifo ++ [.line (field p 0 2) (p.drop 2) 0] }) := by
  unfold Receiver.takeLine
  dsimp only
  split
  · exact .inl ⟨_, _, rfl⟩
  split
  · exact .inl ⟨_, _, rfl⟩
  split
  · exact .inl ⟨_, _, rfl⟩
  split
  · exact .inl ⟨_, _, rfl⟩
  split
  · exact .inl ⟨_, _, rfl⟩
  case isFalse hlen =>
    split
    · exact .inl ⟨_, _, rfl⟩
    case isFalse hroom => exact .inr ⟨Nat.lt_of_not_le hroom, not_not.mp hlen, rfl⟩

theorem Receiver.lawful.takeInfo (h : r.lawful) (hq : r.qual.timed = true) (f : OpenFrame) (p : List Byte) (t : Stamp) :
    (r.takeInfo f p t).lawful := by
  rcases r.takeInfo_cases f p t with ⟨k, line, he⟩ | he <;> rw [he]
  · exact h.fail hq f k t line
  · exact h.timedAlike hq ⟨rfl, rfl, rfl, rfl, rfl, rfl⟩

theorem Receiver.lawful.takeLine (h : r.lawful) (hq : r.qual.timed = true) (f : OpenFrame) (p : List Byte) (t : Stamp) :
    (r.takeLine f p t).lawful := by
  rcases r.takeLine_cases f p t with ⟨k, line, he⟩ | ⟨-, -, he⟩ <;> rw [he]
  · exact h.fail hq f k t line
  · exact h.timedAlike hq ⟨rfl, rfl, rfl, rfl, rfl, rfl⟩

/-- What the law says of a timed port, by its state. -/
theorem Receiver.lawful.timed (h : r.lawful) (hq : r.qual.timed = true) :
    ∃ d, r.descriptor = some d ∧ d.inRange = true ∧
      ((r.qual = .acquiring ∧ r.goodRun < d.acquire ∧ r.badRun = 0 ∧ r.bprev = none ∧ r.lastPublished = none) ∨
        (r.qual = .locked ∧ r.goodRun = 0 ∧ r.badRun = 0) ∨
        (r.qual = .holdover ∧ r.goodRun < d.acquire ∧ r.badRun < d.lose)) := by
  obtain ⟨d, hd, hr⟩ := h.descriptor (by rintro he; rw [he] at hq; cases hq)
  have hquals := h.2
  refine ⟨d, hd, hr, ?_⟩
  rw [hd] at hquals
  cases he : r.qual with
  | disabled | noSignal => rw [he] at hq; cases hq
  | acquiring => rw [he] at hquals; exact .inl ⟨rfl, hquals⟩
  | locked => rw [he] at hquals; exact .inr (.inl ⟨rfl, hquals⟩)
  | holdover => rw [he] at hquals; exact .inr (.inr ⟨rfl, hquals⟩)

/-- A bad close leaves a timed port in ACQUIRING, or in HOLDOVER with fewer bad frames than lose it (R80 to R82). -/
theorem Receiver.lawful.closeBad (h : r.lawful) (hq : r.qual.timed = true) (x : Failure) :
    (r.closeBad x (judgeBad r.qual r.badRun ((r.descriptor.map Descriptor.lose).getD 0))).lawful ∧
    (r.closeBad x (judgeBad r.qual r.badRun ((r.descriptor.map Descriptor.lose).getD 0))).qual.timed = true := by
  obtain ⟨d, hd, hr, hcases⟩ := h.timed hq
  obtain ⟨hacq, hlose⟩ := Descriptor.counts_pos hr
  simp only [hd, Option.map_some, Option.getD_some]
  rcases hcases with ⟨hs, hg, hb, hp, hl⟩ | ⟨hs, hg, hb⟩ | ⟨hs, hg, hb⟩ <;> simp only [hs, judgeBad]
  · exact ⟨⟨h.1, by dsimp only [Receiver.closeBad]; rw [hd]; exact ⟨by omega, rfl, hp, hl⟩⟩, rfl⟩
  · split
    · exact ⟨⟨h.1, by dsimp only [Receiver.closeBad]; rw [hd]; omega⟩, rfl⟩
    · exact ⟨⟨h.1, by dsimp only [Receiver.closeBad]; rw [hd]; exact ⟨by omega, rfl, rfl, rfl⟩⟩, rfl⟩
  · split
    · exact ⟨⟨h.1, by dsimp only [Receiver.closeBad]; rw [hd]; omega⟩, rfl⟩
    · exact ⟨⟨h.1, by dsimp only [Receiver.closeBad]; rw [hd]; exact ⟨by omega, rfl, rfl, rfl⟩⟩, rfl⟩

/-- A good close leaves a timed port in the state that its run of good frames gives (R80 to R82). -/
theorem Receiver.lawful.closeGood (h : r.lawful) (hq : r.qual.timed = true) (i : Info) (t : Stamp) :
    (r.closeGood i (judgeGood r.qual r.goodRun r.badRun ((r.descriptor.map Descriptor.acquire).getD 0)) t).lawful := by
  obtain ⟨d, hd, hr, hcases⟩ := h.timed hq
  simp only [hd, Option.map_some, Option.getD_some]
  rcases hcases with ⟨hs, hg, hb, hp, hl⟩ | ⟨hs, hg, hb⟩ | ⟨hs, hg, hb⟩ <;> simp only [hs, judgeGood]
  · split
    · exact ⟨h.1, by dsimp only [Receiver.closeGood]; rw [hd]; exact ⟨by omega, rfl, hp, hl⟩⟩
    · exact ⟨h.1, by dsimp only [Receiver.closeGood]; rw [hd]; exact ⟨rfl, rfl⟩⟩
  · exact ⟨h.1, by dsimp only [Receiver.closeGood]; rw [hd]; exact ⟨rfl, rfl⟩⟩
  · split
    · exact ⟨h.1, by dsimp only [Receiver.closeGood]; rw [hd]; omega⟩
    · exact ⟨h.1, by dsimp only [Receiver.closeGood]; rw [hd]; exact ⟨rfl, rfl⟩⟩

/-- Another write FIFO is as lawful, if a DISABLED port's stays empty. -/
theorem Receiver.lawful.fifo (h : r.lawful) (l : List FifoEntry) (hl : r.fifo = [] → l = []) :
    ({ r with fifo := l } : Receiver).lawful := by
  refine ⟨h.1, ?_⟩
  have := h.2
  dsimp only
  cases hq : r.qual with
  | disabled =>
    obtain ⟨h1, h2, h3, h4, h5, h6, h7⟩ := h.disabled hq
    exact ⟨h1, h2, h3, h4, h5, h6, hl h7⟩
  | noSignal | acquiring | locked | holdover =>
    rw [hq] at this
    cases hr : r.descriptor <;> rw [hr] at this <;> exact this

end

/-! ### The ports under every command -/

theorem Qual.ne_disabled_of_timed {q : Qual} (h : q.timed = true) : q ≠ .disabled := by
  rintro rfl
  cases h

theorem Qual.timed_of_qualified {q : Qual} (h : q.qualified = true) : q.timed = true := by
  cases q with
  | locked | holdover => rfl
  | disabled | noSignal | acquiring => cases h

theorem Receiver.reset_lawful : Receiver.reset.lawful := ⟨nofun, rfl, rfl, rfl, rfl, rfl, rfl, rfl⟩

theorem portsLawful_of_exec {c : Instr} {s s' : State} (h : exec c s = .next s') : s.portsLawful → s'.portsLawful := by
  apply exec_rules (h := h) (W := fun _ s w => s.portsLawful → w.portsLawful)
    (Q := fun _ s s' => s.portsLawful → s'.portsLawful)
  case answered => exact fun _ _ hw _ h => hw h
  case restart => exact fun _ h d => by simpa [State.restart] using (h d).restart
  case descriptor =>
    intro t g p s cam _ _ hq hd h
    exact Quad.forall_set h
      (Receiver.lawful_of_disabled (fun _ he => Option.some.inj he ▸ hd) hq ((h cam).disabled hq))
  case enable =>
    intro t g p s cam d _ _ hq hd h
    obtain ⟨-, -, ho, hp, hb, hl, -⟩ := (h cam).disabled hq
    exact Quad.forall_set h (Receiver.lawful_of_noSignal hd ((h cam).1 d hd) rfl ⟨rfl, rfl, ho, hp, hb, hl⟩)
  case disable => exact fun cam _ _ h d => by simpa using Quad.forall_set h (h cam).disable d
  case reset => exact fun cam _ _ h d => by simpa using Quad.forall_set h (h cam).restart d
  case powerOn => exact fun _ _ _ d => by simpa [State.reset] using Receiver.reset_lawful
  case acquires =>
    intro t cam p s hq h
    exact Quad.forall_set h ((((h cam).touch t).acquire ((Receiver.touch_qual _ _).trans hq) t).beginFrame rfl t)
  case opens =>
    intro t cam p s hq _ h
    exact Quad.forall_set h (((h cam).touch t).beginFrame (by simpa using hq) t)
  case reopens =>
    rintro t cam p s f x s1 hq - - rfl h
    obtain ⟨hl, ht⟩ := ((h cam).touch t).closeBad (by simpa using hq) x
    refine Quad.forall_set ?_ (Receiver.lawful.beginFrame ?_ ?_ t)
    · exact fun d => by simpa using Quad.forall_set (Quad.forall_set h ((h cam).touch t)) hl d
    · simpa using hl
    · simpa using ht
  case touched => exact fun cam _ _ h => Quad.forall_set h ((h cam).touch _)
  case info => exact fun f hq _ _ h => Quad.forall_set h (((h _).touch _).takeInfo (by simpa using hq) f _ _)
  case line => exact fun f hq _ _ h => Quad.forall_set h (((h _).touch _).takeLine (by simpa using hq) f _ _)
  case foreign => exact fun f hq _ _ h => Quad.forall_set h (((h _).touch _).fail (by simpa using hq) f _ _ _)
  case closesBad =>
    intro t cam p s f x hq _ _ h d
    have ht := (h cam).touch t
    simpa using Quad.forall_set (Quad.forall_set h ht) (ht.closeBad (by simpa using hq) x).1 d
  case closesGood =>
    intro t cam p s f i hq _ _ h d
    have ht := (h cam).touch t
    simpa using Quad.forall_set (Quad.forall_set h ht) (ht.closeGood (by simpa using hq) i t) d
  case silenced =>
    intro t cam s r hq h d
    simpa using Quad.forall_set h ((h cam).silence (Qual.ne_disabled_of_timed (Qual.timed_of_qualified hq))) d
  case silent => exact fun hq h => Quad.forall_set h ((h _).silence (by simp [hq]))
  case openRequest => exact fun rest hf h => Quad.forall_set h ((h _).fifo rest (by simp [hf]))
  case abandonRequest => exact fun rest hf h => Quad.forall_set h ((h _).fifo rest (by simp [hf]))
  case publishRequest => exact fun _ _ rest hf h => Quad.forall_set h ((h _).fifo rest (by simp [hf]))
  case dropReadyRequest => exact fun rest hf h => Quad.forall_set h ((h _).fifo rest (by simp [hf]))
  case written => exact fun _ _ _ _ _ _ h => Quad.forall_set h ((h _).fifo _ fun he => by rw [he]; rfl)
  all_goals
    intros
    rename_i h
    intro d
    simpa using h d

end Sys2Proof.Machine

namespace Sys2Proof.Proofs
open Sys2Proof Sys2Proof.Machine

/-- Settles O4: each piece of a receiver's work keeps its port lawful, the closes by the tables of R80 to R82. -/
theorem portLawKept : Obligations.PortLawKept :=
  keeps_of_exec (fun _ _ h => h) (fun _ _ h => h) fun _ _ _ h he => portsLawful_of_exec he h

end Sys2Proof.Proofs
end

section
set_option deprecated.oldSectionVars true -- proofs in sequence: their tasks would not fit the thread limit
/-! The law of the write FIFOs (R96): a write FIFO is a list of changes to whether its ring has a FILLING slot, and the
receiver appends only what its open-frame record allows. -/
namespace Sys2Proof.Machine

/-! ### Lists of requests -/

/-- What a FIFO does from its head it does by its first part and then by its second. -/
theorem fifoAgrees_append (f o : Bool) (l m : List FifoEntry) :
    fifoAgrees f o (l ++ m) ↔ ∃ mid, fifoAgrees f mid l ∧ fifoAgrees mid o m := by
  induction l generalizing f with
  | nil => simp [fifoAgrees]
  | cons e l ih => cases e <;> simp only [List.cons_append, fifoAgrees, ih, exists_and_left, and_assoc]

/-! ### The FILLING slot of a ring -/

/-- The ring holds a FILLING slot. -/
def Ring.fills (r : Ring) : Bool := r.toList.any SlotRecord.isFilling

theorem Ring.fills_iff (r : Ring) : Ring.fills r = true ↔ ∃ i, (r.get i).isFilling = true := by
  simp only [Ring.fills, Trio.toList, List.any_cons, List.any_nil, Bool.or_false, Bool.or_eq_true]
  constructor
  · rintro (h | h | h)
    · exact ⟨0, h⟩
    · exact ⟨1, h⟩
    · exact ⟨2, h⟩
  · rintro ⟨i, h⟩
    match i with
    | 0 => exact .inl h
    | 1 => exact .inr (.inl h)
    | 2 => exact .inr (.inr h)

theorem Ring.fills_eq_false_iff (r : Ring) : Ring.fills r = false ↔ ∀ i, (r.get i).isFilling = false := by
  rw [← Bool.not_eq_true, Ring.fills_iff]
  simp

theorem Ring.fills_congr {r r' : Ring} (h : ∀ i, (r'.get i).isFilling = (r.get i).isFilling) :
    Ring.fills r' = Ring.fills r := by
  rw [Bool.eq_iff_iff, Ring.fills_iff, Ring.fills_iff]
  simp [h]

/-- Freeing slots that are not FILLING leaves the FILLING slot. -/
theorem Ring.fills_freeWhere {p : SlotRecord → Bool} (hp : ∀ x, p x = true → x.isFilling = false) (r : Ring) :
    Ring.fills (freeWhere p r) = Ring.fills r := by
  refine Ring.fills_congr fun i => ?_
  rw [freeWhere_get]
  split
  case isTrue h => rw [hp _ h]; rfl
  case isFalse => rfl

theorem SlotRecord.isFilling_of_isReady (x : SlotRecord) (h : x.isReady = true) : x.isFilling = false := by
  cases x with
  | ready => rfl
  | free | filling | held => cases h

theorem SlotRecord.isFilling_of_isHeld (x : SlotRecord) (h : x.isHeld = true) : x.isFilling = false := by
  cases x with
  | held => rfl
  | free | filling | ready => cases h

@[simp] theorem Ring.fills_ringStop (r : Ring) : Ring.fills (ringStop r) = Ring.fills r :=
  Ring.fills_freeWhere SlotRecord.isFilling_of_isHeld r

@[simp] theorem Ring.fills_ringDropReady (r : Ring) : Ring.fills (ringDropReady r) = Ring.fills r :=
  Ring.fills_freeWhere SlotRecord.isFilling_of_isReady r

theorem Ring.fills_ringAbandon (r : Ring) : Ring.fills (ringAbandon r) = false := by
  refine (Ring.fills_eq_false_iff _).mpr fun i => ?_
  rw [ringAbandon, freeWhere_get]
  split
  case isTrue => rfl
  case isFalse h => exact Bool.not_eq_true _ ▸ h

theorem Ring.fills_all_free : Ring.fills (Trio.all .free) = false := rfl

theorem Ring.fills_ringRelease (r : Ring) : Ring.fills (ringRelease r) = false := by
  refine (Ring.fills_eq_false_iff _).mpr fun i => ?_
  rw [ringRelease, Trio.get_map, freeWhere_get]
  cases Trio.get r i <;> rfl

@[simp] theorem Ring.fills_ringPoison (r : Ring) (i : Fin 3) : Ring.fills (ringPoison r i) = Ring.fills r := by
  refine Ring.fills_congr fun j => ?_
  rw [ringPoison_get]
  cases Trio.get r j with
  | free | filling | ready => rfl
  | held => dsimp only; split <;> rfl

/-- A lawful ring with no FILLING slot has a FREE one: at most two of its three slots are READY or HELD. -/
theorem Ring.lawful.exists_free {r : Ring} (h : Ring.lawful r) (hf : Ring.fills r = false) :
    ∃ i, (r.get i).isFree = true := by
  obtain ⟨-, hready, hheld⟩ := (Ring.lawful_iff r).mp h
  by_contra hnone
  have hslot : ∀ i, (r.get i).isReady = true ∨ (r.get i).isHeld = true := by
    intro i
    have hi : ¬ (r.get i).isFree = true := fun hfree => hnone ⟨i, hfree⟩
    have hfi := (Ring.fills_eq_false_iff r).mp hf i
    cases hx : r.get i with
    | free => rw [hx] at hi; exact absurd rfl hi
    | filling => rw [hx] at hfi; cases hfi
    | ready => exact .inl rfl
    | held => exact .inr rfl
  rcases hslot 0 with h0 | h0 <;> rcases hslot 1 with h1 | h1 <;> rcases hslot 2 with h2 | h2
  · exact absurd (hready 0 1 h0 h1) (by decide)
  · exact absurd (hready 0 1 h0 h1) (by decide)
  · exact absurd (hready 0 2 h0 h2) (by decide)
  · exact absurd (hheld 1 2 h1 h2) (by decide)
  · exact absurd (hready 1 2 h1 h2) (by decide)
  · exact absurd (hheld 0 2 h0 h2) (by decide)
  · exact absurd (hheld 0 1 h0 h1) (by decide)
  · exact absurd (hheld 0 1 h0 h1) (by decide)

theorem Ring.fills_set_filling (r : Ring) (i : Fin 3) (t : Stamp) : Ring.fills (Trio.set r i (.filling t)) = true :=
  (Ring.fills_iff _).mpr ⟨i, by simp⟩

/-- An open that finds no FILLING slot claims one (R97). -/
theorem Ring.lawful.fills_opened {r : Ring} (h : Ring.lawful r) (t : Stamp) : Ring.fills (ringOpen r t) = true := by
  rcases ringOpen_cases r t with ⟨i, -, he⟩ | ⟨i, -, -, he⟩ | ⟨hn, hfree, he⟩
  · rw [he, Ring.fills_set_filling]
  · rw [he, Ring.fills_set_filling]
  · obtain ⟨i, hi⟩ := h.exists_free ((Ring.fills_eq_false_iff r).mpr (Trio.find_none.mp hn))
    rw [Trio.find_none.mp hfree i] at hi
    cases hi

/-- A publish takes the FILLING slot (R99). -/
theorem Ring.lawful.fills_published {r : Ring} (h : Ring.lawful r) (close : Stamp) (n : Half) :
    Ring.fills (ringPublish r close n) = false := by
  obtain ⟨hf, -, -⟩ := (Ring.lawful_iff r).mp h
  rcases ringPublish_cases r close n with ⟨hn, he⟩ | ⟨i, o, hi, -, he⟩ <;> rw [he]
  · exact (Ring.fills_eq_false_iff r).mpr (Trio.find_none.mp hn)
  · refine (Ring.fills_eq_false_iff _).mpr fun j => ?_
    rw [Trio.get_set]
    split
    case isTrue => rfl
    case isFalse hj =>
      rw [freeWhere_get]
      split
      case isTrue => rfl
      case isFalse => exact Bool.not_eq_true _ ▸ fun hfill => hj (hf j i hfill (Trio.find_some hi).1)

/-- A take makes a READY slot HELD and frees HELD ones; it leaves the FILLING slot (R102). -/
theorem Ring.fills_ringTake (r : Ring) (composable : Bool) (t : Stamp) (maxAge : Nat) :
    Ring.fills (ringTake r composable t maxAge).1 = Ring.fills r := by
  rcases ringTake_cases r composable t maxAge with ⟨-, he⟩ | ⟨i, o, c, n, -, -, hi, -, he⟩ | ⟨_, _, _, _, -, -, -, -, he⟩ |
    ⟨_, _, _, _, -, -, -, -, -, he⟩ | ⟨_, _, _, _, -, -, -, -, -, he⟩ | ⟨-, -, -, he⟩ <;> rw [he]
  case inr.inl =>
    refine (Ring.fills_congr fun j => ?_).trans (Ring.fills_ringStop r)
    rw [Trio.get_set]
    split
    case isTrue hj => subst hj; rw [ringStop, freeWhere_get, hi]; rfl
    case isFalse => rfl
  all_goals exact Ring.fills_ringStop r

/-! ### What the receiver appends -/

/-- The write FIFO of a receiver agrees with its ring, which holds a FILLING slot or not, and with its open frame. -/
def Receiver.agrees (r : Receiver) (filling : Bool) : Prop := fifoAgrees filling r.openFrame.isSome r.fifo

section
variable {r : Receiver} {b : Bool}

theorem Receiver.agrees.touch (h : r.agrees b) (t : Stamp) : (r.touch t).agrees b := by
  unfold Receiver.agrees
  rw [Receiver.touch_openFrame, Receiver.touch_fifo]
  exact h

theorem Receiver.agrees.beginFrame (h : r.agrees b) (ho : r.openFrame = none) (t : Stamp) : (r.beginFrame t).agrees b := by
  rw [Receiver.agrees, ho] at h
  exact (fifoAgrees_append ..).mpr ⟨false, h, rfl, rfl⟩

/-- A receiver that has appended nothing, and still has a frame open, agrees as before. -/
theorem Receiver.agrees.keepOpen {f : OpenFrame} (h : r.agrees b) (ho : r.openFrame = some f) (g : OpenFrame) :
    ({ r with openFrame := some g } : Receiver).agrees b := by
  rw [Receiver.agrees, ho] at h
  exact h

theorem Receiver.agrees.takeInfo {f : OpenFrame} (h : r.agrees b) (ho : r.openFrame = some f) (p : List Byte) (t : Stamp) :
    (r.takeInfo f p t).agrees b := by
  rcases r.takeInfo_cases f p t with ⟨k, line, he⟩ | he <;> rw [he]
  · exact h.keepOpen ho _
  · exact h.keepOpen ho _

theorem Receiver.agrees.takeLine {f : OpenFrame} (h : r.agrees b) (ho : r.openFrame = some f) (p : List Byte) (t : Stamp) :
    (r.takeLine f p t).agrees b := by
  rcases r.takeLine_cases f p t with ⟨k, line, he⟩ | ⟨-, -, he⟩ <;> rw [he]
  · exact h.keepOpen ho _
  · exact (fifoAgrees_append ..).mpr ⟨true, h.keepOpen ho f, rfl, rfl⟩

theorem Receiver.agrees.closeBad {f : OpenFrame} (h : r.agrees b) (ho : r.openFrame = some f) (x : Failure) (v : Verdict) :
    (r.closeBad x v).agrees b := by
  rw [Receiver.agrees, ho] at h
  refine (fifoAgrees_append ..).mpr ⟨true, h, rfl, ?_⟩
  split
  · exact ⟨rfl, rfl⟩
  · exact rfl

theorem Receiver.agrees.closeGood {f : OpenFrame} (h : r.agrees b) (ho : r.openFrame = some f) (i : Info) (v : Verdict)
    (t : Stamp) : (r.closeGood i v t).agrees b := by
  rw [Receiver.agrees, ho] at h
  refine (fifoAgrees_append ..).mpr ⟨true, h, ?_⟩
  split
  · exact ⟨rfl, rfl⟩
  · exact ⟨rfl, rfl⟩

theorem Receiver.agrees.silence (h : r.agrees b) : r.silence.agrees b := by
  refine (fifoAgrees_append ..).mpr ⟨false, (fifoAgrees_append ..).mpr ⟨r.openFrame.isSome, h, ?_⟩, ?_⟩
  · cases r.openFrame with
    | none => exact rfl
    | some => exact ⟨rfl, rfl⟩
  · split
    · exact ⟨rfl, rfl⟩
    · exact rfl

/-- The last chunk of a line takes it out of the FIFO, another leaves it there; the FILLING slot stays. -/
theorem Receiver.agrees.afterChunk (h : r.agrees b) : ({ r with fifo := Machine.afterChunk r.fifo } : Receiver).agrees b := by
  unfold Receiver.agrees at h ⊢
  dsimp only
  cases hf : r.fifo with
  | nil => rw [hf] at h; exact h
  | cons e rest =>
    rw [hf] at h
    cases e with
    | line k data n =>
      obtain ⟨rfl, hrest⟩ := h
      simp only [Machine.afterChunk]
      split
      · exact ⟨rfl, hrest⟩
      · exact hrest
    | openReq | abandonReq | publishReq | dropReadyReq => exact h

theorem Receiver.agrees_of_empty (ho : r.openFrame = none) (hf : r.fifo = []) : r.agrees false := by
  rw [Receiver.agrees, ho, hf]
  exact rfl

end

/-! ### The FIFOs under every command -/

theorem State.fifosAgree_iff (s : State) :
    s.fifosAgree ↔ ∀ c, (s.cr.get c).agrees (Ring.fills (s.fmc.rings.get c)) := Iff.rfl

/-- A change of one receiver and its ring, which agree again, leaves the others as they were. -/
theorem State.fifosAgree.update {s s' : State} (h : s.fifosAgree) (cam : Camera) {r : Receiver}
    (hcr : s'.cr = s.cr.set cam r) (hrings : ∀ c, c ≠ cam → s'.fmc.rings.get c = s.fmc.rings.get c)
    (hr : r.agrees (Ring.fills (s'.fmc.rings.get cam))) : s'.fifosAgree := by
  rw [State.fifosAgree_iff] at h ⊢
  intro c
  rw [hcr, Quad.get_set]
  split
  case isTrue hc => rw [hc]; exact hr
  case isFalse hc => rw [hrings c hc]; exact h c

/-- A change of one receiver, which agrees with its ring as before. -/
theorem State.fifosAgree.receiver {s s' : State} (h : s.fifosAgree) (cam : Camera) {r : Receiver}
    (hcr : s'.cr = s.cr.set cam r) (hrings : s'.fmc.rings = s.fmc.rings)
    (hr : ∀ b, (s.cr.get cam).agrees b → r.agrees b) : s'.fifosAgree :=
  h.update cam hcr (fun _ _ => by rw [hrings]) (by rw [hrings]; exact hr _ (h cam))

/-- Rings that keep their FILLING slots agree with the same receivers. -/
theorem State.fifosAgree.rings {s s' : State} (h : s.fifosAgree) (hcr : s'.cr = s.cr)
    (hrings : ∀ c, Ring.fills (s'.fmc.rings.get c) = Ring.fills (s.fmc.rings.get c)) : s'.fifosAgree := by
  rw [State.fifosAgree_iff] at h ⊢
  intro c
  rw [hcr, hrings]
  exact h c

/-- A ring request takes the head of the FIFO and changes the FILLING slot as the rest expects. -/
theorem State.fifosAgree.request {s : State} (h : s.fifosAgree) (cam : Camera) (t : Stamp) {e : FifoEntry}
    {rest : List FifoEntry} {ring : Ring} (hf : (s.cr.get cam).fifo = e :: rest)
    (hring : fifoAgrees (Ring.fills (s.fmc.rings.get cam)) (s.cr.get cam).openFrame.isSome (e :: rest) →
      fifoAgrees (Ring.fills ring) (s.cr.get cam).openFrame.isSome rest) :
    (((s.arrive t).setReceiver cam { s.cr.get cam with fifo := rest }).setRing cam ring).fifosAgree := by
  refine h.update cam rfl (fun c hc => ?_) ?_
  · simp [hc]
  · have := h cam
    rw [hf] at this
    simpa [Receiver.agrees] using hring this

theorem State.fifosAgree.touched {s : State} (h : s.fifosAgree) (cam : Camera) (t : Stamp) :
    ((s.arrive t).setReceiver cam ((s.cr.get cam).touch t)).fifosAgree :=
  h.receiver cam rfl rfl fun _ hb => hb.touch t

theorem State.fifosAgree.closeBad {s : State} (h : s.fifosAgree) {cam : Camera} {f : OpenFrame}
    (ho : (s.cr.get cam).openFrame = some f) (x : Failure) (t : Stamp) : (s.closeBad cam f x t).fifosAgree :=
  h.receiver cam (State.closeBad_cr ..) (by simp) fun _ hb => hb.closeBad ho x _

theorem State.fifosAgree.closeGood {s : State} (h : s.fifosAgree) {cam : Camera} {f : OpenFrame}
    (ho : (s.cr.get cam).openFrame = some f) (i : Info) (t : Stamp) : (s.closeGood cam i t).fifosAgree :=
  h.receiver cam (State.closeGood_cr ..) (by simp) fun _ hb => hb.closeGood ho i _ t

theorem fifosAgree_of_exec {c : Instr} {s s' : State} (h : exec c s = .next s') :
    s.ringsLawful → s.portsLawful → s.fifosAgree → s'.fifosAgree := by
  apply exec_rules (h := h) (W := fun _ s w => s.ringsLawful → s.portsLawful → s.fifosAgree → w.fifosAgree)
    (Q := fun _ s s' => s.ringsLawful → s.portsLawful → s.fifosAgree → s'.fifosAgree)
  case answered => exact fun _ _ hw _ hr hp h => hw hr hp h
  case stop => exact fun _ _ _ _ h => h.rings (by simp) fun c => by simp
  case restart =>
    intro t g p s _ _ _ h c
    change Receiver.agrees _ (Ring.fills _)
    simpa [State.restart, Ring.fills_all_free] using Receiver.agrees_of_empty (r := (s.cr.get c).restart) rfl rfl
  case descriptor => exact fun cam _ _ _ _ _ _ h => h.receiver cam rfl rfl fun _ => id
  case enable => exact fun cam _ _ _ _ _ _ _ h => h.receiver cam rfl rfl fun _ => id
  case disable =>
    intro t g p s cam _ _ _ _ h
    refine h.update cam (r := (s.cr.get cam).disable) (by simp) (fun c hc => by simp [hc]) ?_
    simpa [Ring.fills_ringRelease] using Receiver.agrees_of_empty rfl rfl
  case reset =>
    intro t g p s cam _ _ _ _ h
    refine h.update cam (r := (s.cr.get cam).restart) (by simp) (fun c hc => by simp [hc]) ?_
    simpa [Ring.fills_ringRelease] using Receiver.agrees_of_empty rfl rfl
  case powerOn =>
    intro s a b _ _ _ c
    change Receiver.agrees _ (Ring.fills _)
    simpa [State.reset, FMC.reset, Ring.fills_all_free] using Receiver.agrees_of_empty (r := .reset) rfl rfl
  case acquires =>
    intro t cam p s hq _ hp h
    refine h.receiver cam rfl rfl fun b hb => Receiver.agrees.beginFrame (hb.touch t) ?_ t
    obtain ⟨d, hd, -⟩ := (hp cam).descriptor (by simp [hq])
    have hlaw := (hp cam).2
    rw [hq, hd] at hlaw
    exact (Receiver.touch_openFrame ..).trans hlaw.2.2.1
  case opens =>
    intro t cam p s _ ho _ _ h
    exact h.receiver cam rfl rfl fun b hb => (hb.touch t).beginFrame ((Receiver.touch_openFrame ..).trans ho) t
  case reopens =>
    rintro t cam p s f x s1 - ho - rfl - - h
    have hclosed := (h.touched cam t).closeBad (cam := cam) (by simpa using ho) x t
    exact hclosed.receiver cam rfl rfl fun b hb => hb.beginFrame (by simp [Receiver.closeBad]) t
  case touched => exact fun cam _ _ _ _ h => h.touched cam _
  case info =>
    exact fun f _ ho _ _ _ h => h.receiver _ rfl rfl fun _ hb =>
      (hb.touch _).takeInfo ((Receiver.touch_openFrame ..).trans ho) _ _
  case line =>
    exact fun f _ ho _ _ _ h => h.receiver _ rfl rfl fun _ hb =>
      (hb.touch _).takeLine ((Receiver.touch_openFrame ..).trans ho) _ _
  case foreign =>
    exact fun f _ ho _ _ _ h => h.receiver _ rfl rfl fun _ hb =>
      (hb.touch _).keepOpen ((Receiver.touch_openFrame ..).trans ho) _
  case closesBad => exact fun f x _ ho _ _ _ h => (h.touched _ _).closeBad (by simpa using ho) x _
  case closesGood => exact fun f i _ ho _ _ _ h => (h.touched _ _).closeGood (by simpa using ho) i _
  case silenced => exact fun _ _ _ _ h => h.receiver _ (by simp; rfl) (by simp) fun _ hb => hb.silence
  case silent => exact fun _ _ _ h => h.receiver _ rfl rfl fun _ hb => hb.silence
  case openRequest =>
    intro t cam s rest hf hr _ h
    refine h.request cam t hf fun he => ?_
    rw [(hr cam).fills_opened]
    exact he.2
  case abandonRequest =>
    intro t cam s rest hf _ _ h
    refine h.request cam t hf fun he => ?_
    rw [Ring.fills_ringAbandon]
    exact he.2
  case publishRequest =>
    intro t cam s close n rest hf hr _ h
    refine h.request cam t hf fun he => ?_
    rw [(hr cam).fills_published]
    exact he.2
  case dropReadyRequest =>
    intro t cam s rest hf _ _ h
    refine h.request cam t hf fun he => ?_
    rw [Ring.fills_ringDropReady, he.1]
    exact he.2
  case written =>
    exact fun c k off bytes _ _ _ _ h => h.receiver c rfl (by simp) fun _ hb => hb.afterChunk
  case read =>
    intro t ups s c slot n no k x u v w h' _ _ _ h
    refine h.rings (by simp) fun d => ?_
    obtain ⟨errors, he | he⟩ := State.completeTaps_fmc (s.arrive t) t c slot n ups no k x u v w h' <;> rw [he]
    · rfl
    · dsimp only
      rw [Quad.get_set]
      split
      case isTrue hd => rw [hd]; exact Ring.fills_ringPoison _ _
      case isFalse => rfl
  case frameStart =>
    intro t s _ _ _ _ _ h
    refine h.rings (by simp) fun d => ?_
    rw [State.startFrame_rings]
    exact Ring.fills_ringTake _ _ _ _
  case frameEnd =>
    intro t s set _ _ _ _ h
    refine h.rings (by simp) fun d => ?_
    rw [State.endFrame_rings]
    split
    · simp
    · rfl
  case active => exact fun k _ _ _ h => h.rings (by simp) fun _ => by simp
  all_goals
    intros
    rename_i h
    exact h

end Sys2Proof.Machine

namespace Sys2Proof.Proofs
open Sys2Proof Sys2Proof.Machine

/-- Settles O5: the receiver appends what its open frame allows and the ring requests change the FILLING slot as the FIFO
expects; that an open finds a FREE slot is the law of the rings. -/
theorem fifoLawKept : Obligations.FifoLawKept :=
  keeps_of_exec (fun _ _ h => h) (fun _ _ h => h) fun _ _ _ ⟨hr, hp, hf⟩ he =>
    ⟨ringsLawful_of_exec he hr, portsLawful_of_exec he hp, fifosAgree_of_exec he hr hp hf⟩

end Sys2Proof.Proofs
end

section
set_option deprecated.oldSectionVars true -- proofs in sequence: their tasks would not fit the thread limit
/-! The law of the run state (R22, R108, R109, R112, R128), and that the slots of the composition set stay HELD (R22, R101,
R102). -/
namespace Sys2Proof.Machine

/-! ### The engine between a frame start and its frame end -/

/-- The engine has gone on with its frame: same composition set, IDLE or not as before, at most a line of pixels. -/
def CE.Continues (a b : CE) : Prop :=
  b.set = a.set ∧ (b.state = .idle ↔ a.state = .idle) ∧ (a.pixels.length ≤ 720 → b.pixels.length ≤ 720)

theorem CE.Continues.refl (a : CE) : a.Continues a := ⟨rfl, Iff.rfl, id⟩

theorem CE.Kept.continues {a b : CE} (h : CE.Kept a b) : a.Continues b := ⟨h.set, h.idle, h.pixels⟩

theorem CE.cutCamera_continues (ce : CE) (nodes : List (Nat × NodeRecord)) (c : Camera) (no : Count) :
    ce.Continues (ce.cutCamera nodes c no) := by
  obtain ⟨hset, hstate, -, -, hpix⟩ := ce.cutCamera_frame nodes c no
  exact ⟨hset, by rw [hstate], hpix⟩

/-- After a tap read the engine has its sample, or the camera is cut. -/
theorem State.completeTaps_ce (s : State) (t : Stamp) (c : Camera) (slot : Fin 3) (n : Half)
    (ups : List (Nat × WordError)) (no : Count) (k x : Nat) (u v : Int) (w h : Nat) :
    (s.completeTaps t ups c slot n no k x u v w h).ce =
        s.ce.deliver s.nodes c no k x (sampleAt s.fmc.mem c slot u v w h) ∨
      (s.completeTaps t ups c slot n no k x u v w h).ce = s.ce.cutCamera s.nodes c no := by
  rw [State.completeTaps_eq]
  split
  · right
    rw [State.poison, State.handFault_ce, State.setCe_ce, State.looked_ce, State.looked_nodes]
  · left
    rw [State.setCe_ce]

theorem State.completeTaps_continues (s : State) (t : Stamp) (c : Camera) (slot : Fin 3) (n : Half)
    (ups : List (Nat × WordError)) (no : Count) (k x : Nat) (u v : Int) (w h : Nat) :
    s.ce.Continues (s.completeTaps t ups c slot n no k x u v w h).ce := by
  rcases s.completeTaps_ce t c slot n ups no k x u v w h with he | he <;> rw [he]
  · exact (CE.deliver_kept ..).continues
  · exact CE.cutCamera_continues ..

/-- At an active line period the engine begins the line it waits with, or abandons the line that is missing. -/
theorem State.emitLine_ce (s : State) (k : Nat) (t : Stamp) :
    (s.emitLine k t).ce = s.ce.lineLeft s.nodes ∨ (s.emitLine k t).ce = s.ce.abandonLine s.nodes k := by
  unfold State.emitLine
  split
  · split
    · exact .inl (State.setCe_ce ..)
    · exact .inr (State.setCe_ce ..)
  · exact .inr (State.setCe_ce ..)

theorem State.emitLine_continues (s : State) (k : Nat) (t : Stamp) : s.ce.Continues (s.emitLine k t).ce := by
  rcases s.emitLine_ce k t with he | he <;> rw [he]
  · exact (CE.lineLeft_kept ..).continues
  · exact (CE.abandonLine_kept ..).continues

/-- At an active line period the port emits a line of its FIFO, or the fill. -/
theorem State.emitLine_op (s : State) (k : Nat) (t : Stamp) :
    (∃ j l rest, s.op.fifo = (j, l) :: rest ∧ (s.emitLine k t).op = { s.op with fifo := rest, emitting := some l }) ∨
    ∃ l, (s.emitLine k t).op = { s.op with emitting := some l, underruns := s.op.underruns + 1 } := by
  have hunder : ∃ l, (s.underrun k t).op = { s.op with emitting := some l, underruns := s.op.underruns + 1 } := by
    unfold State.underrun
    exact ⟨_, by rw [State.setCe_op, State.handFault_op]; rfl⟩
  unfold State.emitLine
  split
  case h_1 j l rest he =>
    split
    · exact .inl ⟨j, l, rest, he, by rw [State.setCe_op]; rfl⟩
    · exact .inr hunder
  case h_2 => exact .inr hunder

/-! ### Frame starts and frame ends -/

theorem State.startFrame_state (s : State) (t : Stamp) : (s.startFrame t).ce.state = .composing := by
  unfold State.startFrame CE.frameStart
  exact (CE.beginLine_frame _ _ 0).1

theorem State.startFrame_op (s : State) (t : Stamp) : (s.startFrame t).op = s.op.frameStart t := by
  unfold State.startFrame
  exact State.setOp_op ..

@[simp] theorem State.startFrame_pu (s : State) (t : Stamp) : (s.startFrame t).pu = s.pu.reload := by
  unfold State.startFrame
  dsimp only
  rw [State.setOp_pu, State.setCe_pu, State.raiseStales_pu]
  split <;> rfl

theorem State.startFrame_fmc (s : State) (t : Stamp) :
    ∃ rings, (s.startFrame t).fmc = { s.fmc with rings := rings } := by
  unfold State.startFrame
  exact ⟨_, by rw [State.setOp_fmc, State.setCe_fmc, State.raiseStales_fmc, State.setFmc_fmc]⟩

/-- The engine at the frame end: IDLE, its set released, its line and pixels gone. -/
theorem State.endFrame_ce (s : State) (set : CompSet) (t : Stamp) :
    (s.endFrame set t).ce =
      { s.ce with state := .idle, line := 0, set := none, pixels := [], samples := [], acc := .zero } := by
  unfold State.endFrame
  dsimp only
  split <;> rfl

theorem State.endFrame_of_stopping {s : State} (h : s.pu.run = .stopping) (set : CompSet) (t : Stamp) :
    (s.endFrame set t).pu = { s.pu with run := .stopped } ∧ (s.endFrame set t).op = s.op.goIdle ∧
    (s.endFrame set t).fmc = { s.fmc with rings := s.fmc.rings.map ringStop } := by
  unfold State.endFrame
  rw [if_pos h]
  exact ⟨rfl, rfl, rfl⟩

theorem State.endFrame_of_not_stopping {s : State} (h : s.pu.run ≠ .stopping) (set : CompSet) (t : Stamp) :
    (s.endFrame set t).pu = s.pu ∧ (s.endFrame set t).op = s.op ∧ (s.endFrame set t).fmc = s.fmc := by
  unfold State.endFrame
  rw [if_neg h]
  exact ⟨rfl, rfl, rfl⟩

/-! ### The law of the run state -/

theorem RunState.operational_of_running {r : RunState} (h : r = .running ∨ r = .stopping) : r.operational = true := by
  rcases h with rfl | rfl <;> rfl

theorem RunState.not_operational_of_startup {r : RunState} (h : r = .startup) : r.operational = false := by
  rw [h]
  rfl

section
variable {s s' : State}

/-- An engine that is not IDLE is at work in RUNNING or STOPPING. -/
theorem State.runLawful.running (h : s.runLawful) (hce : s.ce.state ≠ .idle) : s.pu.run = .running ∨ s.pu.run = .stopping := by
  by_contra hno
  obtain ⟨hr, hs⟩ := not_or.mp hno
  exact hce (h.quiet hr hs)

theorem State.runLawful.set_none (h : s.runLawful) (hce : s.ce.state = .idle) : s.ce.set = none := h.idle.mp hce

/-- A port whose receiver is at work, or whose write FIFO is not empty, is a port of an operational part. -/
theorem State.runLawful.operational (h : s.runLawful) {c : Camera}
    (hport : (s.cr.get c).qual ≠ .disabled ∨ (s.cr.get c).fifo ≠ []) : s.pu.run.operational = true := by
  by_contra hop
  obtain ⟨hq, hf⟩ := h.ports (Bool.eq_false_iff.mpr hop) c
  rcases hport with hport | hport
  · exact hport hq
  · exact hport hf

theorem State.runLawful.operational_of_fifo (h : s.runLawful) {c : Camera} {e : FifoEntry} {rest : List FifoEntry}
    (hf : (s.cr.get c).fifo = e :: rest) : s.pu.run.operational = true :=
  h.operational (c := c) (.inr (by simp [hf]))

theorem State.runLawful.operational_of_qual (h : s.runLawful) {c : Camera} {q : Qual} (hq : (s.cr.get c).qual = q)
    (hne : q ≠ .disabled) : s.pu.run.operational = true :=
  h.operational (c := c) (.inl (hq ▸ hne))

theorem State.runLawful.operational_of_port (h : s.runLawful) (hidle : s.op.idle = false) :
    s.pu.run.operational = true := by
  by_contra hop
  refine absurd (h.port.mpr ?_) (by simp [hidle])
  constructor <;> intro he <;> rw [he] at hop <;> exact hop rfl

theorem State.runLawful.operational_of_transfer (h : s.runLawful) {x : Transfer} (hx : s.fmc.transfer = some x) :
    s.pu.run.operational = true := by
  by_contra hop
  rw [(h.rings (Bool.eq_false_iff.mpr hop)).2] at hx
  cases hx

/-- In an operational part the ports, the rings and the transfer are free; the rest stands as it stood. -/
theorem State.runLawful.of_operational (h : s.runLawful) (hop : s.pu.run.operational = true)
    (hrun : s'.pu.run = s.pu.run) (hinit : s'.fmc.init = s.fmc.init) (hce : s.ce.Continues s'.ce)
    (hidle : s'.op.idle = s.op.idle) (hblank : s.op.idle = true → s'.op = s.op) : s'.runLawful := by
  obtain ⟨hset, hstate, -⟩ := hce
  have hno : s'.pu.run.operational ≠ false := by rw [hrun, hop]; decide
  exact
    { startup := by rw [hrun, hinit]; exact h.startup
      ports := fun hf => absurd hf hno
      rings := fun hf => absurd hf hno
      idle := by rw [hstate, hset]; exact h.idle
      quiet := fun hr hs => hstate.mpr (h.quiet (hrun ▸ hr) (hrun ▸ hs))
      frame := fun hs hi => h.frame (hrun ▸ hs) (hstate.mp hi)
      port := by rw [hidle, hrun]; exact h.port
      blank := fun hi => by
        have hi' := hidle ▸ hi
        rw [hblank hi']
        exact h.blank hi' }

/-- A change of the receivers, the rings and the transfer alone, in an operational part. -/
theorem State.runLawful.of_camera (h : s.runLawful) (hop : s.pu.run.operational = true) (hrun : s'.pu = s.pu)
    (hinit : s'.fmc.init = s.fmc.init) (hce : s'.ce = s.ce) (hport : s'.op = s.op) : s'.runLawful :=
  h.of_operational hop (by rw [hrun]) hinit (by rw [hce]; exact .refl _) (by rw [hport]) fun _ => hport

/-- The law speaks of run state, ports, rings, transfer, initialisation, engine and output port. -/
theorem State.runLawful.congr (h : s.runLawful) (hpu : s'.pu.run = s.pu.run) (hcr : ∀ c, (s'.cr.get c).qual = (s.cr.get c).qual ∧
    (s'.cr.get c).fifo = (s.cr.get c).fifo) (hrings : s'.fmc.rings = s.fmc.rings) (hinit : s'.fmc.init = s.fmc.init)
    (htransfer : s.fmc.transfer = none → s'.fmc.transfer = none) (hce : s'.ce = s.ce) (hop : s'.op = s.op) :
    s'.runLawful where
  startup := by rw [hpu, hinit]; exact h.startup
  ports hf c := by rw [(hcr c).1, (hcr c).2]; exact h.ports (hpu ▸ hf) c
  rings hf := by
    obtain ⟨hr, ht⟩ := h.rings (hpu ▸ hf)
    exact ⟨hrings ▸ hr, htransfer ht⟩
  idle := by rw [hce]; exact h.idle
  quiet hr hs := by rw [hce]; exact h.quiet (hpu ▸ hr) (hpu ▸ hs)
  frame hs := by rw [hce]; exact h.frame (hpu ▸ hs)
  port := by rw [hop, hpu]; exact h.port
  blank := by rw [hop]; exact h.blank

/-- What the law says of a part in STOPPED with everything idle. -/
theorem State.runLawful_of_stopped (hrun : s.pu.run = .stopped) (hinit : s.fmc.init = .idle) (hce : s.ce.state = .idle)
    (hset : s.ce.set = none) (hidle : s.op.idle = true)
    (hblank : s.op.fifo = [] ∧ s.op.emitting = none ∧ s.op.counter = 0) : s.runLawful where
  startup := by rw [hrun, hinit]; simp
  ports hf := by rw [hrun] at hf; cases hf
  rings hf := by rw [hrun] at hf; cases hf
  idle := by simp [hce, hset]
  quiet _ _ := hce
  frame hs := by rw [hrun] at hs; cases hs
  port := by simp [hidle, hrun]
  blank _ := hblank

/-- Of a part in RUNNING, or in STOPPING with a frame in progress, the law asks for little. -/
theorem State.runLawful_of_running (hrun : s.pu.run = .running ∨ s.pu.run = .stopping ∧ s.ce.state ≠ .idle)
    (hinit : s.fmc.init = .idle) (hce : s.ce.state = .idle ↔ s.ce.set = none) (hidle : s.op.idle = false) :
    s.runLawful := by
  have hop : s.pu.run.operational = true := RunState.operational_of_running (hrun.imp_right And.left)
  exact
    { startup := by rcases hrun with hr | ⟨hr, -⟩ <;> simp [hr, hinit]
      ports := fun hf => by rw [hop] at hf; cases hf
      rings := fun hf => by rw [hop] at hf; cases hf
      idle := hce
      quiet := fun hr hs => absurd (hrun.imp_right And.left) (by simp [hr, hs])
      frame := fun hs => by
        rcases hrun with hr | ⟨-, hc⟩
        · rw [hs] at hr; cases hr
        · exact hc
      port := by rcases hrun with hr | ⟨hr, -⟩ <;> simp [hr, hidle]
      blank := fun hi => by rw [hidle] at hi; cases hi }

/-- Of a part in STARTUP or MEMORY_FAULT the law asks that everything be at rest. -/
theorem State.runLawful.of_not_operational (h : s.runLawful) (hop : s.pu.run.operational = false)
    (hrun : s'.pu.run = .startup ∧ s'.fmc.init ≠ .idle ∨ s'.pu.run = .memoryFault ∧ s'.fmc.init = .idle)
    (hcr : s'.cr = s.cr) (hrings : s'.fmc.rings = s.fmc.rings) (htransfer : s'.fmc.transfer = s.fmc.transfer)
    (hce : s'.ce = s.ce) (hport : s'.op = s.op) : s'.runLawful := by
  have hr : s.pu.run ≠ .running ∧ s.pu.run ≠ .stopping := by
    constructor <;> intro he <;> rw [he] at hop <;> cases hop
  have hidle := h.port.mpr hr
  have hquiet := h.quiet hr.1 hr.2
  exact
    { startup := by rcases hrun with ⟨h1, h2⟩ | ⟨h1, h2⟩ <;> simp [h1, h2]
      ports := fun _ => by rw [hcr]; exact h.ports hop
      rings := fun _ => by rw [hrings, htransfer]; exact h.rings hop
      idle := by rw [hce]; exact h.idle
      quiet := fun _ _ => by rw [hce]; exact hquiet
      frame := fun hs => by rcases hrun with ⟨h1, -⟩ | ⟨h1, -⟩ <;> rw [h1] at hs <;> cases hs
      port := by rw [hport, hidle]; rcases hrun with ⟨h1, -⟩ | ⟨h1, -⟩ <;> simp [h1]
      blank := fun _ => by rw [hport]; exact h.blank hidle }

theorem State.runLawful.init_idle (h : s.runLawful) (hrun : s.pu.run ≠ .startup) : s.fmc.init = .idle := by
  by_contra hi
  exact hrun (h.startup.mpr hi)

/-- An active or blank line period is one of a port that is not idle. -/
theorem State.not_idle_of_periodDue {t : Stamp} (h : s.periodDue t = true) : s.op.idle = false := by
  simp only [State.periodDue, Bool.and_eq_true, Bool.not_eq_true'] at h
  exact h.1.1.1

end

/-! ### The law under every command -/

@[simp] theorem FMC.store_init (m : FMC) (c : Camera) (row off : Nat) (bytes : List Byte) :
    (m.store c row off bytes).init = m.init := by
  unfold FMC.store; split <;> rfl

@[simp] theorem State.cutWriter_init (s : State) (c : Camera) : (s.cutWriter c).fmc.init = s.fmc.init := by
  unfold State.cutWriter
  split
  · split
    · exact FMC.store_init ..
    · rfl
  · rfl

@[simp] theorem State.releaseRing_init (s : State) (c : Camera) : (s.releaseRing c).fmc.init = s.fmc.init := by
  simp [State.releaseRing]

@[simp] theorem State.cutTransfer_init (s : State) : s.cutTransfer.fmc.init = s.fmc.init := by
  unfold State.cutTransfer
  split
  · exact State.cutWriter_init ..
  · rfl
  · rfl

theorem RunState.ne_startup_of_operational {r : RunState} (h : r.operational = true) : r ≠ .startup := by
  rintro rfl
  cases h

theorem Qual.ne_disabled_of_qualified {q : Qual} (h : q.qualified = true) : q ≠ .disabled :=
  Qual.ne_disabled_of_timed (Qual.timed_of_qualified h)

theorem runLawful_of_exec {c : Instr} {s s' : State} (h : exec c s = .next s') : s.runLawful → s'.runLawful := by
  apply exec_rules (h := h) (W := fun _ s w => s.runLawful → w.runLawful) (Q := fun _ s s' => s.runLawful → s'.runLawful)
  case answered =>
    exact fun _ _ hw _ h => (hw (h.congr rfl (fun _ => ⟨rfl, rfl⟩) rfl rfl id rfl rfl)).congr rfl (fun _ => ⟨rfl, rfl⟩)
      rfl rfl id rfl rfl
  case start =>
    intro t g p s hrun h
    exact State.runLawful_of_running (.inl rfl) (h.init_idle (by simp [hrun])) h.idle rfl
  case stopping =>
    intro t g p s hrun hce h
    exact State.runLawful_of_running (.inr ⟨rfl, hce⟩) (h.init_idle (by simp [hrun])) h.idle
      (Bool.eq_false_iff.mpr fun hi => (h.port.mp hi).1 hrun)
  case stop =>
    intro t g p s hrun hce h
    exact State.runLawful_of_stopped rfl (h.init_idle (by simp [hrun])) hce (h.set_none hce) rfl ⟨rfl, rfl, rfl⟩
  case initialise =>
    intro t g p s hrun h
    exact h.of_not_operational (by rw [hrun]; rfl) (.inl ⟨rfl, nofun⟩) rfl rfl rfl rfl rfl
  case restart =>
    intro t g p s hop h
    refine State.runLawful_of_stopped rfl ?_ rfl rfl rfl ⟨rfl, rfl, rfl⟩
    exact (State.cutTransfer_init s).trans (h.init_idle (RunState.ne_startup_of_operational hop))
  case descriptor => exact fun cam hop _ _ _ h => h.of_camera hop rfl rfl rfl rfl
  case enable => exact fun cam d hop _ _ _ h => h.of_camera hop rfl rfl rfl rfl
  case disable => exact fun cam hop _ h => h.of_camera hop (by simp) (by simp) (by simp) (by simp)
  case reset => exact fun cam hop _ h => h.of_camera hop (by simp) (by simp) (by simp) (by simp)
  case powerOn =>
    intro s a b _
    exact
      { startup := by simp [State.reset, PU.reset, FMC.reset]
        ports := fun _ c => by simp [State.reset, Receiver.reset]
        rings := fun _ => ⟨rfl, rfl⟩
        idle := by simp [State.reset, CE.reset]
        quiet := fun _ _ => rfl
        frame := fun hs => by cases hs
        port := by simp [State.reset, OP.reset, PU.reset]
        blank := fun _ => ⟨rfl, rfl, rfl⟩ }
  case trained =>
    intro t s start hi h
    have hrun := h.startup.mpr (by simp [hi])
    exact h.of_not_operational (RunState.not_operational_of_startup hrun) (.inl ⟨hrun, nofun⟩) rfl rfl rfl rfl rfl
  case untrained =>
    intro t s start hi h
    have hrun := h.startup.mpr (by simp [hi])
    exact h.of_not_operational (RunState.not_operational_of_startup hrun) (.inr ⟨rfl, rfl⟩) rfl rfl rfl rfl rfl
  case filled =>
    intro t s start hi h
    have hrun := h.startup.mpr (by simp [hi])
    have hr : s.pu.run ≠ .running ∧ s.pu.run ≠ .stopping := by simp [hrun]
    have hce := h.quiet hr.1 hr.2
    have hidle := h.port.mpr hr
    exact State.runLawful_of_stopped rfl rfl hce (h.set_none hce) hidle (h.blank hidle)
  case acquires =>
    exact fun hq h => h.of_camera (h.operational_of_qual hq nofun) rfl rfl rfl rfl
  case opens =>
    exact fun hq _ h => h.of_camera (h.operational (.inl (Qual.ne_disabled_of_timed hq))) rfl rfl rfl rfl
  case reopens =>
    rintro t cam p s f x s1 hq - - rfl h
    exact h.of_camera (h.operational (.inl (Qual.ne_disabled_of_timed hq))) (by simp) (by simp) (by simp) (by simp)
  case touched =>
    intro c t s cam _ _ h
    refine h.congr rfl (fun d => ?_) rfl rfl id rfl rfl
    rw [State.setReceiver_cr, State.arrive_cr, Quad.get_set]
    split
    case isTrue hd => rw [hd]; exact ⟨Receiver.touch_qual .., Receiver.touch_fifo ..⟩
    case isFalse => exact ⟨rfl, rfl⟩
  case info =>
    exact fun f hq _ _ h => h.of_camera (h.operational (.inl (Qual.ne_disabled_of_timed hq))) rfl rfl rfl rfl
  case line =>
    exact fun f hq _ _ h => h.of_camera (h.operational (.inl (Qual.ne_disabled_of_timed hq))) rfl rfl rfl rfl
  case foreign =>
    exact fun f hq _ _ h => h.of_camera (h.operational (.inl (Qual.ne_disabled_of_timed hq))) rfl rfl rfl rfl
  case closesBad =>
    exact fun f x hq _ _ h => h.of_camera (h.operational (.inl (Qual.ne_disabled_of_timed hq))) (by simp) (by simp)
      (by simp) (by simp)
  case closesGood =>
    exact fun f i hq _ _ h => h.of_camera (h.operational (.inl (Qual.ne_disabled_of_timed hq))) (by simp) (by simp)
      (by simp) (by simp)
  case silenced =>
    exact fun r hq h => h.of_camera (h.operational (.inl (Qual.ne_disabled_of_qualified hq))) (by simp) (by simp)
      (by simp) (by simp)
  case silent => exact fun hq h => h.of_camera (h.operational_of_qual hq nofun) rfl rfl rfl rfl
  case openRequest => exact fun rest hf h => h.of_camera (h.operational_of_fifo hf) rfl rfl rfl rfl
  case abandonRequest => exact fun rest hf h => h.of_camera (h.operational_of_fifo hf) rfl rfl rfl rfl
  case publishRequest => exact fun _ _ rest hf h => h.of_camera (h.operational_of_fifo hf) rfl rfl rfl rfl
  case dropReadyRequest => exact fun rest hf h => h.of_camera (h.operational_of_fifo hf) rfl rfl rfl rfl
  case writerGrant => exact fun c hop _ _ h => h.of_camera hop rfl rfl rfl rfl
  case tapsGrant => exact fun x hop _ _ h => h.of_camera hop rfl rfl rfl rfl
  case written => exact fun c k off bytes hx _ h => h.of_camera (h.operational_of_transfer hx) rfl (by simp) rfl rfl
  case dropped => exact fun c _ h => h.congr rfl (fun _ => ⟨rfl, rfl⟩) rfl rfl (fun _ => rfl) rfl rfl
  case read =>
    intro t ups s c slot n no k x u v w h' hx h
    refine h.of_operational (h.operational_of_transfer hx) (by simp) ?_
      ((s.arrive t).completeTaps_continues t c slot n ups no k x u v w h') (by simp) fun _ => by simp
    obtain ⟨errors, he | he⟩ := State.completeTaps_fmc (s.arrive t) t c slot n ups no k x u v w h' <;> rw [he] <;> rfl
  case lineComplete =>
    intro t s hce _ _ h
    have hrun := h.running (by simp [hce])
    have hidle : s.op.idle = false :=
      Bool.eq_false_iff.mpr fun hi => hrun.elim (h.port.mp hi).1 (h.port.mp hi).2
    exact h.of_operational (RunState.operational_of_running hrun) rfl rfl (CE.afterLine_kept _ _ hce).continues rfl
      fun hi => by rw [hidle] at hi; cases hi
  case frameStart =>
    intro t s hrun _ _ h
    obtain ⟨set, hset⟩ := (s.arrive t).startFrame_set t
    obtain ⟨rings, hfmc⟩ := (s.arrive t).startFrame_fmc t
    refine State.runLawful_of_running (.inl ?_) ?_ ?_ (by rw [State.startFrame_op]; rfl)
    · rw [State.startFrame_pu]; exact hrun
    · rw [hfmc]; exact h.init_idle (by simp [hrun])
    · rw [State.startFrame_state, hset]; simp
  case blank =>
    intro t s hdue h
    have hidle := State.not_idle_of_periodDue hdue
    have hrun := h.operational_of_port hidle
    exact h.of_operational hrun rfl rfl (.refl _) rfl fun hi => by rw [hidle] at hi; cases hi
  case active =>
    intro t s k hdue h
    have hidle := State.not_idle_of_periodDue hdue
    have hrun := h.operational_of_port hidle
    refine h.of_operational hrun (by simp) (by simp) ?_ ?_ fun hi => by rw [hidle] at hi; cases hi
    · exact State.emitLine_continues _ k t
    · rcases State.emitLine_op ((s.arrive t).setOp { s.op with counter := s.op.counter + 1, emitting := none }) k t with
        ⟨j, l, rest, -, he⟩ | ⟨l, he⟩ <;> rw [he] <;> rfl
  case frameEnd =>
    intro t s set hset hce h
    have hrun := h.running (by simp [hce])
    have hinit := h.init_idle (RunState.ne_startup_of_operational (RunState.operational_of_running hrun))
    by_cases hs : s.pu.run = .stopping
    · obtain ⟨hpu, hop, hfmc⟩ := State.endFrame_of_stopping (s := s.arrive t) hs set t
      exact State.runLawful_of_stopped (by rw [hpu]) (by rw [hfmc]; exact hinit) (by rw [State.endFrame_ce])
        (by rw [State.endFrame_ce]) (by rw [hop]; rfl) (by rw [hop]; exact ⟨rfl, rfl, rfl⟩)
    · obtain ⟨hpu, hop, hfmc⟩ := State.endFrame_of_not_stopping (s := s.arrive t) hs set t
      refine State.runLawful_of_running (.inl ?_) (by rw [hfmc]; exact hinit) (by rw [State.endFrame_ce]; simp) ?_
      · rw [hpu]; exact hrun.resolve_right hs
      · rw [hop]; exact Bool.eq_false_iff.mpr fun hi => (h.port.mp hi).1 (hrun.resolve_right hs)
  all_goals
    intros
    rename_i h
    exact h.congr rfl (fun _ => ⟨rfl, rfl⟩) rfl rfl id rfl rfl

/-! ### The slots of the composition set -/

section
variable {r : Ring} {i : Fin 3}

theorem SlotRecord.not_isHeld_of_isFilling {x : SlotRecord} (h : x.isFilling = true) : x.isHeld = false := by
  cases x with
  | filling => rfl
  | free | ready | held => cases h

theorem SlotRecord.not_isHeld_of_isReady {x : SlotRecord} (h : x.isReady = true) : x.isHeld = false := by
  cases x with
  | ready => rfl
  | free | filling | held => cases h

theorem SlotRecord.not_isHeld_of_isFree {x : SlotRecord} (h : x.isFree = true) : x.isHeld = false := by
  cases x with
  | free => rfl
  | ready | filling | held => cases h

/-- Freeing slots that are not HELD leaves the HELD slot. -/
theorem Ring.held_freeWhere {p : SlotRecord → Bool} (hp : ∀ x, p x = true → x.isHeld = false)
    (h : (r.get i).isHeld = true) : (Trio.get (freeWhere p r) i).isHeld = true := by
  rw [freeWhere_get]
  split
  case isTrue hi => rw [hp _ hi] at h; cases h
  case isFalse => exact h

theorem Ring.held_ringAbandon (h : (r.get i).isHeld = true) : (Trio.get (ringAbandon r) i).isHeld = true :=
  Ring.held_freeWhere (fun _ => SlotRecord.not_isHeld_of_isFilling) h

theorem Ring.held_ringDropReady (h : (r.get i).isHeld = true) : (Trio.get (ringDropReady r) i).isHeld = true :=
  Ring.held_freeWhere (fun _ => SlotRecord.not_isHeld_of_isReady) h

/-- A slot that is not HELD may be replaced without losing a HELD one. -/
theorem Ring.held_set {j : Fin 3} (hj : (r.get j).isHeld = false) (x : SlotRecord) (h : (r.get i).isHeld = true) :
    (Trio.get (Trio.set r j x) i).isHeld = true := by
  rw [Trio.get_set]
  split
  case isTrue he => rw [he, hj] at h; cases h
  case isFalse => exact h

theorem Ring.held_ringOpen (t : Stamp) (h : (r.get i).isHeld = true) : (Trio.get (ringOpen r t) i).isHeld = true := by
  rcases ringOpen_cases r t with ⟨j, hj, he⟩ | ⟨j, -, hj, he⟩ | ⟨-, -, he⟩ <;> rw [he]
  · exact Ring.held_set (SlotRecord.not_isHeld_of_isFilling (Trio.find_some hj).1) _ h
  · exact Ring.held_set (SlotRecord.not_isHeld_of_isFree (Trio.find_some hj).1) _ h
  · exact h

theorem Ring.held_ringPublish (close : Stamp) (n : Half) (h : (r.get i).isHeld = true) :
    (Trio.get (ringPublish r close n) i).isHeld = true := by
  rcases ringPublish_cases r close n with ⟨-, he⟩ | ⟨j, o, -, hj, he⟩ <;> rw [he]
  · exact h
  · refine Ring.held_set ?_ _ (Ring.held_freeWhere (fun _ => SlotRecord.not_isHeld_of_isReady) h)
    rw [freeWhere_get, hj]
    rfl

theorem Ring.held_ringRelease (h : (r.get i).isHeld = true) : (Trio.get (ringRelease r) i).isHeld = true := by
  rw [ringRelease, Trio.get_map, freeWhere_get]
  cases hx : Trio.get r i with
  | held => rfl
  | free | filling | ready => rw [hx] at h; cases h

theorem Ring.held_ringPoison (j : Fin 3) (h : (r.get i).isHeld = true) : (Trio.get (ringPoison r j) i).isHeld = true := by
  rw [ringPoison_get]
  cases hx : Trio.get r i with
  | held => dsimp only; split <;> rfl
  | free | filling | ready => rw [hx] at h; cases h

/-- The slot that a take answers is HELD after it (R102). -/
theorem ringTake_held {composable rep : Bool} {t age : Stamp} {maxAge : Nat} {n : Half}
    (h : (ringTake r composable t maxAge).2 = .taken rep i n age) :
    ((ringTake r composable t maxAge).1.get i).isHeld = true := by
  rcases ringTake_cases r composable t maxAge with ⟨-, he⟩ | ⟨j, o, c, m, -, -, -, -, he⟩ | ⟨_, _, _, _, -, -, -, -, he⟩ |
    ⟨j, o, c, m, -, -, -, hj, -, he⟩ | ⟨_, _, _, _, -, -, -, -, -, he⟩ | ⟨-, -, -, he⟩ <;> rw [he] at h ⊢ <;> cases h
  · simp
  · dsimp only
    rw [hj]
    rfl

end

/-- A camera joins the camera set only with a take that gave it a slot (R119, R120). -/
theorem startClass_eq_taken {r : Receiver} {w : Bool} {x : TakeOutcome} {k : Taken} (h : startClass r w x = .taken k) :
    x = .taken k.repeated k.slot k.counter k.age := by
  unfold startClass at h
  split at h
  · cases h
  · cases h
  · cases h
  all_goals
    split at h
    · cases h
    · cases x <;> cases h
      rfl

section
variable {s s' : State}

theorem State.slotsHeld_of_set_none (h : s.ce.set = none) : s.slotsHeld := fun set hs => by rw [h] at hs; cases hs

/-- The composition set is the same and no slot has ceased to be HELD. -/
theorem State.slotsHeld.of_held (h : s.slotsHeld) (hset : s'.ce.set = s.ce.set)
    (hheld : ∀ c i, ((s.fmc.rings.get c).get i).isHeld = true → ((s'.fmc.rings.get c).get i).isHeld = true) :
    s'.slotsHeld := fun set hs c k hk => hheld c k.slot (h set (hset ▸ hs) c k hk)

/-- One ring has changed and has kept its HELD slots. -/
theorem State.slotsHeld.of_ring (h : s.slotsHeld) (hset : s'.ce.set = s.ce.set) (cam : Camera) {r : Ring}
    (hrings : s'.fmc.rings = s.fmc.rings.set cam r)
    (hheld : ∀ i, ((s.fmc.rings.get cam).get i).isHeld = true → (Trio.get r i).isHeld = true) : s'.slotsHeld := by
  refine h.of_held hset fun c i hi => ?_
  rw [hrings, Quad.get_set]
  split
  case isTrue hc => exact hheld i (hc ▸ hi)
  case isFalse => exact hi

end

theorem slotsHeld_of_exec {c : Instr} {s s' : State} (h : exec c s = .next s') :
    s.runLawful → s.slotsHeld → s'.slotsHeld := by
  apply exec_rules (h := h) (W := fun _ s w => s.runLawful → s.slotsHeld → w.slotsHeld)
    (Q := fun _ s s' => s.runLawful → s.slotsHeld → s'.slotsHeld)
  case answered => exact fun _ _ hw _ hr h => hw (hr.congr rfl (fun _ => ⟨rfl, rfl⟩) rfl rfl id rfl rfl) h
  case stop => exact fun _ hce hr _ => State.slotsHeld_of_set_none (hr.set_none hce)
  case restart => exact fun _ _ _ => State.slotsHeld_of_set_none rfl
  case powerOn => exact fun _ _ _ _ => State.slotsHeld_of_set_none rfl
  case disable => exact fun cam _ _ _ h => h.of_ring (by simp) cam (by simp) fun i hi => Ring.held_ringRelease hi
  case reset => exact fun cam _ _ _ h => h.of_ring (by simp) cam (by simp) fun i hi => Ring.held_ringRelease hi
  case openRequest => exact fun _ _ _ h => h.of_ring rfl _ rfl fun i hi => Ring.held_ringOpen _ hi
  case abandonRequest => exact fun _ _ _ h => h.of_ring rfl _ rfl fun i hi => Ring.held_ringAbandon hi
  case publishRequest => exact fun close n _ _ _ h => h.of_ring rfl _ rfl fun i hi => Ring.held_ringPublish close n hi
  case dropReadyRequest => exact fun _ _ _ h => h.of_ring rfl _ rfl fun i hi => Ring.held_ringDropReady hi
  case read =>
    intro t ups s c slot n no k x u v w h' _ _ h
    have hset := ((s.arrive t).completeTaps_continues t c slot n ups no k x u v w h').1
    obtain ⟨errors, he | he⟩ := State.completeTaps_fmc (s.arrive t) t c slot n ups no k x u v w h'
    · exact h.of_held hset fun _ _ hi => by rw [he]; exact hi
    · exact h.of_ring hset c (by rw [he]; rfl) fun i hi => Ring.held_ringPoison slot hi
  case lineComplete => exact fun hce _ _ _ h => h.of_held (CE.afterLine_kept _ _ hce).set fun _ _ hi => hi
  case frameStart =>
    intro t s _ _ _ _ _ set hset c k hk
    rw [State.startFrame_cam hset] at hk
    rw [State.startFrame_rings]
    exact ringTake_held (startClass_eq_taken hk)
  case active =>
    exact fun k _ _ h => h.of_held (State.emitLine_continues ..).1 fun _ _ hi => by rw [State.emitLine_fmc]; exact hi
  case frameEnd => exact fun set _ _ _ _ => State.slotsHeld_of_set_none (by rw [State.endFrame_ce])
  case reopens =>
    rintro t cam p s f x s1 - - - rfl - h
    exact h.of_held (by simp) (by simp)
  all_goals
    intros
    rename_i h
    exact h.of_held (by simp) (by simp)

end Sys2Proof.Machine

namespace Sys2Proof.Proofs
open Sys2Proof Sys2Proof.Machine

/-- Settles O9: every command moves run state and blocks together, and no ring operation but a take, the output stop and
a reset of the part ends a HELD slot; those fix, release or find no composition set. -/
theorem runLawKept : Obligations.RunLawKept :=
  keeps_of_exec (fun _ _ ⟨hr, hh⟩ => ⟨hr.congr rfl (fun _ => ⟨rfl, rfl⟩) rfl rfl id rfl rfl, hh⟩)
    (fun _ _ ⟨hr, hh⟩ => ⟨hr.congr rfl (fun _ => ⟨rfl, rfl⟩) rfl rfl id rfl rfl, hh⟩)
    fun _ _ _ ⟨hr, hh⟩ he => ⟨runLawful_of_exec he hr, slotsHeld_of_exec he hr hh⟩

end Sys2Proof.Proofs
end

section
set_option deprecated.oldSectionVars true -- proofs in sequence: their tasks would not fit the thread limit
/-! The law of the view slots (R28, R29, R35). -/
namespace Sys2Proof.Machine

/-! ### What the framer leaves alone -/

/-- A byte moves the framer and its gap timer, or completes a frame (R169). -/
theorem LC.takeByte_cases (lc : LC) (b : Byte) (t : Stamp) :
    (∃ f x, lc.takeByte b t = { lc with framer := f, lastByte := x }) ∨
    ∃ len kind tag body crc,
      lc.takeByte b t = ({ lc with framer := .hunt, lastByte := t } : LC).complete len kind tag body crc := by
  unfold LC.takeByte
  split
  · split
    · exact .inl ⟨_, _, rfl⟩
    · exact .inl ⟨_, _, rfl⟩
  · exact .inl ⟨_, _, rfl⟩
  · split
    · exact .inl ⟨_, _, rfl⟩
    · exact .inl ⟨_, _, rfl⟩
  · split
    · exact .inl ⟨_, _, rfl⟩
    · exact .inr ⟨_, _, _, _, _, rfl⟩
  · exact .inl ⟨_, _, rfl⟩

/-- The gap brings the framer back to HUNT, with a reply for a drained frame (R169, R170). -/
theorem LC.expireGap_cases (lc : LC) :
    (∃ f, lc.expireGap = { lc with framer := f }) ∨
    ∃ kind tag, lc.expireGap = ({ lc with framer := .hunt } : LC).placeFramer kind tag .badLength := by
  unfold LC.expireGap
  split
  · exact .inl ⟨_, rfl⟩
  · exact .inr ⟨_, _, rfl⟩
  · exact .inl ⟨_, rfl⟩

@[simp] theorem LC.placeFramer_closing (lc : LC) (kind tag : Byte) (st : Status) :
    (lc.placeFramer kind tag st).closing = lc.closing := by
  rcases lc.placeFramer_cases kind tag st with ⟨-, h⟩ | ⟨-, h⟩ <;> rw [h]

@[simp] theorem LC.complete_closing (lc : LC) (len : Nat) (kind tag : Byte) (body crc : List Byte) :
    (lc.complete len kind tag body crc).closing = lc.closing := by
  rcases lc.complete_cases len kind tag body crc with ⟨-, -, h⟩ | ⟨-, -, h⟩ | ⟨-, h⟩ <;> rw [h]
  · exact LC.placeFramer_closing ..
  · exact LC.placeFramer_closing ..

@[simp] theorem LC.takeByte_closing (lc : LC) (b : Byte) (t : Stamp) : (lc.takeByte b t).closing = lc.closing := by
  rcases lc.takeByte_cases b t with ⟨f, x, h⟩ | ⟨len, kind, tag, body, crc, h⟩ <;> rw [h]
  exact LC.complete_closing ..

@[simp] theorem LC.expireGap_closing (lc : LC) : lc.expireGap.closing = lc.closing := by
  rcases lc.expireGap_cases with ⟨f, h⟩ | ⟨kind, tag, h⟩ <;> rw [h]
  exact LC.placeFramer_closing ..

/-! ### Slots that move among READY, PENDING and ACTIVE -/

/-- The states of a slot whose table is whole (R28). -/
def ViewState.Whole (x : ViewState) : Prop := x = .ready ∨ x = .pending ∨ x = .active

/-- The slot has kept its table, and its state or a state of a whole table. -/
def ViewSlot.Moved (x y : ViewSlot) : Prop :=
  y.nodes = x.nodes ∧ (y.state = x.state ∨ x.state.Whole ∧ y.state.Whole)

theorem ViewSlot.Moved.refl (x : ViewSlot) : x.Moved x := ⟨rfl, .inl rfl⟩

theorem ViewSlot.moved_enter {x : ViewSlot} {st : ViewState} (h : x.state.Whole) (hst : st.Whole) : x.Moved (x.enter st) :=
  ⟨rfl, .inr ⟨h, hst⟩⟩

theorem ViewSlot.lawful_of_whole {x : ViewSlot} (h : x.state.Whole) :
    x.lawful ↔ keysRising x.nodes = true ∧ unwritten x.nodes = [] := by
  unfold ViewSlot.lawful
  rcases h with hx | hx | hx <;> rw [hx]

theorem ViewSlot.lawful.moved {x y : ViewSlot} (h : x.lawful) (hm : x.Moved y) : y.lawful := by
  obtain ⟨hn, hs | ⟨hx, hy⟩⟩ := hm
  · unfold ViewSlot.lawful
    rw [hn, hs]
    exact h
  · rw [ViewSlot.lawful_of_whole hy, hn]
    exact (ViewSlot.lawful_of_whole hx).mp h

theorem ViewState.not_closing_of_whole {x : ViewState} (h : x.Whole) : x ≠ .closing := by
  rcases h with rfl | rfl | rfl <;> nofun

theorem ViewSlot.Moved.closing_iff {x y : ViewSlot} (h : x.Moved y) : y.state = .closing ↔ x.state = .closing := by
  obtain ⟨-, hs | ⟨hx, hy⟩⟩ := h
  · rw [hs]
  · exact iff_of_false (ViewState.not_closing_of_whole hy) (ViewState.not_closing_of_whole hx)

theorem moveSlots_moved {a b : ViewState} (ha : a.Whole) (hb : b.Whole) (q : Quad ViewSlot) (w : Fin 4) :
    (q.get w).Moved ((moveSlots q a b).get w) := by
  rw [moveSlots_get]
  split
  case isTrue h => exact ViewSlot.moved_enter (h ▸ ha) hb
  case isFalse => exact .refl _

theorem moveSlots_state {a b : ViewState} (hab : b ≠ a) (q : Quad ViewSlot) (w : Fin 4) :
    ((moveSlots q a b).get w).state ≠ a ∧
    ∀ c, c ≠ a → c ≠ b → (((moveSlots q a b).get w).state = c ↔ (q.get w).state = c) := by
  rw [moveSlots_get]
  split
  case isTrue h => exact ⟨hab, fun c hc hb => iff_of_false (Ne.symm hb) (h ▸ Ne.symm hc)⟩
  case isFalse h => exact ⟨h, fun c _ _ => Iff.rfl⟩

/-! ### The law -/

section
variable {s s' : State}

theorem State.viewsLawful.congr (h : s.viewsLawful) (hslots : s'.vs.slots = s.vs.slots)
    (hsel : s'.vs.selection = s.vs.selection) (hclosing : s'.lc.closing = s.lc.closing) : s'.viewsLawful where
  tables := by rw [hslots]; exact h.tables
  active := by rw [hslots]; exact h.active
  pending := by rw [hslots, hsel]; exact h.pending
  closing := by rw [hslots, hclosing]; exact h.closing

/-- Slots have moved among READY, PENDING and ACTIVE. -/
theorem State.viewsLawful.moved (h : s.viewsLawful) (hm : ∀ w, (s.vs.slots.get w).Moved (s'.vs.slots.get w))
    (hactive : ∀ v w, (s'.vs.slots.get v).state = .active → (s'.vs.slots.get w).state = .active → v = w)
    (hpending : ∀ v, (s'.vs.slots.get v).state = .pending ↔ s'.vs.selection = .slot v)
    (hclosing : s'.lc.closing = s.lc.closing) : s'.viewsLawful where
  tables v := (h.tables v).moved (hm v)
  active := hactive
  pending := hpending
  closing v := by rw [(hm v).closing_iff, hclosing]; exact h.closing v

/-- One slot has come to another state and table, neither ACTIVE nor PENDING before or after. -/
theorem State.viewsLawful.replace (h : s.viewsLawful) (v : Fin 4) {x : ViewSlot}
    (hslots : s'.vs.slots = s.vs.slots.set v x) (hsel : s'.vs.selection = s.vs.selection) (hx : x.lawful)
    (hactive : x.state ≠ .active) (hpending : x.state ≠ .pending ∧ (s.vs.slots.get v).state ≠ .pending)
    (hclosing : ∀ w, (if w = v then x.state = .closing else (s.vs.slots.get w).state = .closing) ↔
      s'.lc.closing.map Closing.slot = some w) : s'.viewsLawful := by
  have hget : ∀ w, s'.vs.slots.get w = if w = v then x else s.vs.slots.get w := fun w => by rw [hslots, Quad.get_set]
  refine ⟨fun w => ?_, fun a b ha hb => ?_, fun w => ?_, fun w => ?_⟩
  · rw [hslots]
    exact Quad.forall_set h.tables hx w
  · rw [hget] at ha hb
    split at ha
    case isTrue => exact absurd ha hactive
    split at hb
    case isTrue => exact absurd hb hactive
    exact h.active a b ha hb
  · rw [hget, hsel, ← h.pending]
    split
    case isTrue hw => rw [hw]; exact iff_of_false hpending.1 hpending.2
    case isFalse => exact Iff.rfl
  · rw [hget, ← hclosing]
    split <;> exact Iff.rfl

/-- A slot that leaves CLOSING, or was not CLOSING, where the executor is as it was for the others. -/
theorem State.viewsLawful.not_closing (h : s.viewsLawful) {v : Fin 4} (hv : (s.vs.slots.get v).state ≠ .closing)
    {x : ViewSlot} (hx : x.state ≠ .closing) (w : Fin 4) :
    (if w = v then x.state = .closing else (s.vs.slots.get w).state = .closing) ↔
      s.lc.closing.map Closing.slot = some w := by
  rw [← h.closing]
  split
  case isTrue hw => rw [hw]; exact iff_of_false hx hv
  case isFalse => exact Iff.rfl

/-- The pending selection is withdrawn, and its slot READY again. -/
theorem State.viewsLawful.deselect (h : s.viewsLawful) (hslots : s'.vs.slots = moveSlots s.vs.slots .pending .ready)
    (hsel : ∀ v, s'.vs.selection ≠ .slot v) (hclosing : s'.lc.closing = s.lc.closing) : s'.viewsLawful := by
  have hstate := moveSlots_state (a := .pending) (b := .ready) nofun s.vs.slots
  refine h.moved (fun w => ?_) (fun v w => ?_) (fun v => ?_) hclosing <;> rw [hslots]
  · exact moveSlots_moved (.inr (.inl rfl)) (.inl rfl) _ w
  · rw [(hstate v).2 .active nofun nofun, (hstate w).2 .active nofun nofun]
    exact h.active v w
  · exact iff_of_false (hstate v).1 (hsel v)

/-- A READY slot becomes PENDING in place of any other. -/
theorem State.viewsLawful.select (h : s.viewsLawful) {v : Fin 4} (hv : (s.vs.slots.get v).state = .ready)
    (hslots : s'.vs.slots = (moveSlots s.vs.slots .pending .ready).set v
      (((moveSlots s.vs.slots .pending .ready).get v).enter .pending))
    (hsel : s'.vs.selection = .slot v) (hclosing : s'.lc.closing = s.lc.closing) : s'.viewsLawful := by
  have hget : ∀ w, s'.vs.slots.get w = if w = v then (s.vs.slots.get w).enter .pending
      else if (s.vs.slots.get w).state = .pending then (s.vs.slots.get w).enter .ready else s.vs.slots.get w :=
    fun w => by rw [hslots, select_get hv]
  have hactive : ∀ w, (s'.vs.slots.get w).state = .active → (s.vs.slots.get w).state = .active := by
    intro w hw
    rw [hget] at hw
    split at hw
    · cases hw
    · split at hw
      · cases hw
      · exact hw
  refine h.moved (fun w => ?_) (fun a b ha hb => h.active a b (hactive a ha) (hactive b hb)) (fun w => ?_) hclosing
  · rw [hget]
    split
    case isTrue hw => exact ViewSlot.moved_enter (.inl (hw ▸ hv)) (.inr (.inl rfl))
    split
    case isTrue hw => exact ViewSlot.moved_enter (.inr (.inl hw)) (.inl rfl)
    case isFalse => exact .refl _
  · rw [hget, hsel, Selection.slot.injEq]
    split
    case isTrue hw => exact iff_of_true rfl hw.symm
    case isFalse hw =>
      refine iff_of_false ?_ (Ne.symm hw)
      split
      · nofun
      · assumption

end

/-! ### The take of the pending selection -/

/-- A selected slot becomes ACTIVE in place of the one that was (R42). -/
theorem take_get (q : Quad ViewSlot) (v w : Fin 4) :
    ((moveSlots q .active .ready).set v (((moveSlots q .active .ready).get v).enter .active)).get w =
      if w = v then (q.get w).enter .active
      else if (q.get w).state = .active then (q.get w).enter .ready else q.get w := by
  rw [Quad.get_set]
  split
  case isTrue hw =>
    rw [hw, moveSlots_get]
    split <;> rfl
  case isFalse => exact moveSlots_get q .active .ready w

@[simp] theorem VS.frameStart_selection (v : VS) : v.frameStart.selection = .nonePending := by
  unfold VS.frameStart VS.takeSelection
  cases h : v.selection with
  | nonePending => exact h
  | slot | withdraw => rfl

theorem VS.frameStart_slots_of_none {v : VS} (h : v.selection = .nonePending) : v.frameStart.slots = v.slots := by
  unfold VS.frameStart VS.takeSelection
  rw [h]

theorem VS.frameStart_slots_of_slot {v : VS} {i : Fin 4} (h : v.selection = .slot i) :
    v.frameStart.slots = (moveSlots v.slots .active .ready).set i
      (((moveSlots v.slots .active .ready).get i).enter .active) := by
  unfold VS.frameStart VS.takeSelection
  rw [h]

theorem VS.frameStart_slots_of_withdraw {v : VS} (h : v.selection = .withdraw) :
    v.frameStart.slots = moveSlots v.slots .active .ready := by
  unfold VS.frameStart VS.takeSelection
  rw [h]

@[simp] theorem State.startFrame_vs (s : State) (t : Stamp) : (s.startFrame t).vs = s.vs.frameStart := by
  unfold State.startFrame
  dsimp only
  rw [State.setOp_vs, State.setCe_vs, State.raiseStales_vs]
  split <;> rfl

/-- A frame start takes the pending selection, and leaves at most the slot taken ACTIVE. -/
theorem State.viewsLawful.frameStart {s s' : State} (h : s.viewsLawful) (hvs : s'.vs = s.vs.frameStart)
    (hclosing : s'.lc.closing = s.lc.closing) : s'.viewsLawful := by
  cases hsel : s.vs.selection with
  | nonePending =>
    exact h.congr (by rw [hvs, VS.frameStart_slots_of_none hsel]) (by rw [hvs, VS.frameStart_selection, hsel]) hclosing
  | slot i =>
    have hi := (h.pending i).mpr hsel
    have hget : ∀ w, s'.vs.slots.get w = if w = i then (s.vs.slots.get w).enter .active
        else if (s.vs.slots.get w).state = .active then (s.vs.slots.get w).enter .ready else s.vs.slots.get w :=
      fun w => by rw [hvs, VS.frameStart_slots_of_slot hsel, take_get]
    have hactive : ∀ w, (s'.vs.slots.get w).state = .active → w = i := by
      intro w hw
      by_contra hne
      rw [hget, if_neg hne] at hw
      split at hw
      · cases hw
      · contradiction
    refine h.moved (fun w => ?_) (fun a b ha hb => (hactive a ha).trans (hactive b hb).symm) (fun w => ?_) hclosing
    · rw [hget]
      split
      case isTrue hw => exact ViewSlot.moved_enter (.inr (.inl (hw ▸ hi))) (.inr (.inr rfl))
      split
      case isTrue hw => exact ViewSlot.moved_enter (.inr (.inr hw)) (.inl rfl)
      case isFalse => exact .refl _
    · rw [hvs, VS.frameStart_selection, ← hvs]
      refine iff_of_false (fun hw => ?_) nofun
      rw [hget] at hw
      split at hw
      · cases hw
      case isFalse hne =>
        split at hw
        · cases hw
        · exact hne (Selection.slot.inj (((h.pending w).mp hw).symm.trans hsel))
  | withdraw =>
    have hstate := moveSlots_state (a := .active) (b := .ready) nofun s.vs.slots
    have hslots : s'.vs.slots = moveSlots s.vs.slots .active .ready := by
      rw [hvs, VS.frameStart_slots_of_withdraw hsel]
    refine h.moved (fun w => ?_) (fun v w hv => absurd (hslots ▸ hv) (hstate v).1) (fun v => ?_) hclosing
    · rw [hslots]
      exact moveSlots_moved (.inr (.inr rfl)) (.inl rfl) _ w
    · rw [hslots, hvs, VS.frameStart_selection, (hstate v).2 .pending nofun nofun, h.pending, hsel]
      exact iff_of_false nofun nofun

/-- RESTART makes the ACTIVE and the PENDING slot READY (R49). -/
theorem State.viewsLawful.restart {s s' : State} (h : s.viewsLawful) (hvs : s'.vs = s.vs.restart)
    (hclosing : s'.lc.closing = s.lc.closing) : s'.viewsLawful := by
  have hstate := moveSlots_state (a := .active) (b := .ready) nofun s.vs.slots
  have hmid : (s.setVs { s.vs with
      slots := moveSlots s.vs.slots .active .ready }).viewsLawful := by
    refine h.moved (fun w => moveSlots_moved (.inr (.inr rfl)) (.inl rfl) _ w)
      (fun v w hv => absurd hv (hstate v).1) (fun v => ?_) rfl
    exact ((hstate v).2 .pending nofun nofun).trans (h.pending v)
  exact hmid.deselect (by rw [hvs]; rfl) (fun v => by rw [hvs]; nofun) hclosing

/-! ### The law under every command -/

theorem ViewSlot.reset_lawful : ViewSlot.reset.lawful := ⟨rfl, rfl⟩

theorem keysRising_putNodes {nodes : List (Nat × NodeRecord)} (first : Nat) (rs : List NodeRecord)
    (h : keysRising nodes = true) : keysRising (putNodes nodes first rs) = true := by
  induction rs generalizing nodes first with
  | nil => exact h
  | cons r rs ih => exact ih (first + 1) (keysRising_keyPut first r h)

/-- What is written by at least one record is not empty. -/
theorem putNodes_ne_nil {rs : List NodeRecord} (hrs : rs ≠ []) (nodes : List (Nat × NodeRecord)) (first : Nat) :
    putNodes nodes first rs ≠ [] := by
  obtain ⟨r, rs, rfl⟩ := List.exists_cons_of_ne_nil hrs
  intro he
  have hr := keyGet_putNodes_inside (rs := r :: rs) (k := 0) nodes first rfl
  rw [he] at hr
  cases hr

theorem viewsLawful_of_exec {c : Instr} {s s' : State} (h : exec c s = .next s') : s.viewsLawful → s'.viewsLawful := by
  apply exec_rules (h := h) (W := fun _ s w => s.viewsLawful → w.viewsLawful)
    (Q := fun _ s s' => s.viewsLawful → s'.viewsLawful)
  case answered => exact fun _ _ hw _ h => (hw (h.congr rfl rfl rfl)).congr rfl rfl rfl
  case restart =>
    intro t g p s _ h
    refine h.restart ?_ ?_
    all_goals
      unfold State.restart State.cutTransfer
      dsimp only
      split <;> simp
  case clear =>
    intro t g p s v hv h
    refine h.replace v rfl rfl ViewSlot.reset_lawful nofun ⟨nofun, ?_⟩ (h.not_closing ?_ nofun)
    · rcases hv with hv | hv | hv <;> rw [hv] <;> nofun
    · rcases hv with hv | hv | hv <;> rw [hv] <;> nofun
  case load =>
    intro t g p s v rs hrs hv h
    refine h.replace v rfl rfl ⟨keysRising_putNodes _ _ (h.tables v).1, putNodes_ne_nil hrs _ _⟩ nofun ⟨nofun, ?_⟩
      (h.not_closing ?_ nofun)
    · rcases hv with hv | hv <;> rw [hv] <;> nofun
    · rcases hv with hv | hv <;> rw [hv] <;> nofun
  case select => exact fun v hv h => h.select hv rfl rfl rfl
  case reselect => exact fun h => h.deselect rfl (fun _ => nofun) rfl
  case withdraw => exact fun h => h.deselect rfl (fun _ => nofun) rfl
  case powerOn =>
    intro s a b _
    exact
      { tables := fun v => by simpa [State.reset, VS.reset] using ViewSlot.reset_lawful
        active := fun v w hv => by simp [State.reset, VS.reset, ViewSlot.reset] at hv
        pending := fun v => by simp [State.reset, VS.reset, ViewSlot.reset]
        closing := fun v => by simp [State.reset, VS.reset, ViewSlot.reset, LC.reset] }
  case byte => exact fun h => h.congr rfl rfl (LC.takeByte_closing ..)
  case gap => exact fun h => h.congr rfl rfl (LC.expireGap_closing ..)
  case unknown => exact fun _ h => h.congr rfl rfl rfl
  case closeView =>
    intro t g p s rest v ha _ hv h
    have hlaw := h.tables v
    unfold ViewSlot.lawful at hlaw
    rw [hv] at hlaw
    refine h.replace v rfl rfl hlaw nofun ⟨nofun, by rw [hv]; nofun⟩ fun w => ?_
    split
    case isTrue hw => exact iff_of_true rfl (congrArg some hw.symm)
    case isFalse hw =>
      rw [h.closing, ha.idle]
      exact iff_of_false nofun fun he => hw (Option.some.inj he).symm
  case scanned =>
    intro t s k data hk hn h
    have hv := (h.closing k.slot).mpr (by rw [hk]; rfl)
    have hrising := (h.tables k.slot).1
    refine h.replace k.slot rfl rfl ⟨hrising, hn⟩ nofun ⟨nofun, by rw [hv]; nofun⟩ fun w => ?_
    split
    case isTrue => exact iff_of_false nofun nofun
    case isFalse hw =>
      rw [h.closing, hk]
      exact iff_of_false (fun he => hw (Option.some.inj he).symm) nofun
  case unscanned =>
    intro t s k data hk h
    have hv := (h.closing k.slot).mpr (by rw [hk]; rfl)
    have hlaw := h.tables k.slot
    unfold ViewSlot.lawful at hlaw
    rw [hv] at hlaw
    refine h.replace k.slot rfl rfl hlaw nofun ⟨nofun, by rw [hv]; nofun⟩ fun w => ?_
    split
    case isTrue => exact iff_of_false nofun nofun
    case isFalse hw =>
      rw [h.closing, hk]
      exact iff_of_false (fun he => hw (Option.some.inj he).symm) nofun
  case frameStart => exact fun _ _ _ h => h.frameStart (State.startFrame_vs ..) (by simp)
  case reopens =>
    rintro t cam p s f x s1 - - - rfl h
    exact h.congr (by simp) (by simp) (by simp)
  all_goals
    intros
    rename_i h
    exact h.congr (by simp) (by simp) (by simp)

end Sys2Proof.Machine

namespace Sys2Proof.Proofs
open Sys2Proof Sys2Proof.Machine

/-- Settles O6: the requests on view slots, the scan and the frame start are the only ones that move a slot, and each keeps
tables, states, selection and executor in agreement. -/
theorem viewLawKept : Obligations.ViewLawKept :=
  keeps_of_exec (fun _ _ h => h.congr rfl rfl rfl) (fun _ _ h => h.congr rfl rfl rfl) fun _ _ _ h he =>
    viewsLawful_of_exec he h

end Sys2Proof.Proofs
end

section
set_option deprecated.oldSectionVars true -- proofs in sequence: their tasks would not fit the thread limit
/-! What a frame draws on stays as its frame start fixed it: the composition set (R118), the tables of whole view slots
(R37) and the ACTIVE slot (R43); and the engine waits for taps (R22, R23, R93). -/
namespace Sys2Proof.Machine

/-! ### The composition set -/

/-- A command that may fix, release or reset the composition set. -/
def Instr.EndsSet (c : Instr) : Prop :=
  (∃ t, c = .outputFrameStart t) ∨ (∃ t, c = .frameEnd t) ∨ (∃ t g p, c = .restart t g p) ∨ ∃ a b, c = .powerOn a b

theorem set_of_exec {c : Instr} {s s' : State} (h : exec c s = .next s') : ¬ Instr.EndsSet c → s'.ce.set = s.ce.set := by
  apply exec_rules (h := h) (W := fun c s w => ¬ Instr.EndsSet c → w.ce.set = s.ce.set)
    (Q := fun c s s' => ¬ Instr.EndsSet c → s'.ce.set = s.ce.set)
  case answered => exact fun _ _ hw _ hc => hw hc
  case restart => exact fun _ hc => absurd (.inr (.inr (.inl ⟨_, _, _, rfl⟩))) hc
  case powerOn => exact fun _ _ hc => absurd (.inr (.inr (.inr ⟨_, _, rfl⟩))) hc
  case frameStart => exact fun _ _ _ hc => absurd (.inl ⟨_, rfl⟩) hc
  case frameEnd => exact fun _ _ _ hc => absurd (.inr (.inl ⟨_, rfl⟩)) hc
  case read =>
    exact fun c slot n no k x u v w h' _ _ => ((State.arrive _ _).completeTaps_continues _ c slot n _ no k x u v w h').1
  case lineComplete => exact fun hce _ _ _ => (CE.afterLine_kept _ _ hce).set
  case active => exact fun k _ _ => (State.emitLine_continues ..).1
  case reopens =>
    rintro t cam p s f x s1 - - - rfl -
    simp
  all_goals
    intros
    simp

/-! ### Whole view slots -/

theorem enter_nodes (q : Quad ViewSlot) (v : Fin 4) (st : ViewState) (w : Fin 4) :
    ((q.set v ((q.get v).enter st)).get w).nodes = (q.get w).nodes := by
  rw [Quad.get_set]
  split
  case isTrue h => rw [h]; rfl
  case isFalse => rfl

theorem moveSlots_nodes (q : Quad ViewSlot) (a b : ViewState) (w : Fin 4) :
    ((moveSlots q a b).get w).nodes = (q.get w).nodes := by
  rw [moveSlots_get]
  split <;> rfl

theorem VS.frameStart_nodes (v : VS) (w : Fin 4) : (v.frameStart.slots.get w).nodes = (v.slots.get w).nodes := by
  cases h : v.selection with
  | nonePending => rw [VS.frameStart_slots_of_none h]
  | slot i => rw [VS.frameStart_slots_of_slot h, enter_nodes, moveSlots_nodes]
  | withdraw => rw [VS.frameStart_slots_of_withdraw h, moveSlots_nodes]

theorem State.restart_vs (s : State) : s.restart.vs = s.vs.restart := congrArg VS.restart (State.cutTransfer_vs s)

/-- Whatever becomes of a slot with a whole table, it keeps the table, or is a READY slot that CLEAR_VIEW empties. -/
def TableKept (c : Instr) (x y : ViewSlot) : Prop :=
  y.nodes = x.nodes ∨ (∃ t g p, c = .clearView t g p) ∧ x.state = .ready ∧ y = ⟨.empty, []⟩

theorem tables_of_exec {c : Instr} {s s' : State} (h : exec c s = .next s') :
    (∀ a b, c ≠ .powerOn a b) → ∀ v, (s.vs.slots.get v).state.Whole →
      TableKept c (s.vs.slots.get v) (s'.vs.slots.get v) := by
  apply exec_rules (h := h)
    (W := fun c s w => (∀ a b, c ≠ .powerOn a b) → ∀ v, (s.vs.slots.get v).state.Whole →
      TableKept c (s.vs.slots.get v) (w.vs.slots.get v))
    (Q := fun c s s' => (∀ a b, c ≠ .powerOn a b) → ∀ v, (s.vs.slots.get v).state.Whole →
      TableKept c (s.vs.slots.get v) (s'.vs.slots.get v))
  case answered => exact fun _ _ hw _ hc => hw hc
  case powerOn => exact fun a b hc => absurd rfl (hc a b)
  case restart =>
    intro t g p s _ _ v _
    rw [State.restart_vs]
    exact .inl ((moveSlots_nodes ..).trans (moveSlots_nodes ..))
  case clear =>
    intro t g p s v hv _ w hw
    by_cases hwv : w = v
    · subst hwv
      have hready : (s.vs.slots.get w).state = .ready := by
        rcases hv with hv | hv | hv
        · rw [hv] at hw; rcases hw with hw | hw | hw <;> cases hw
        · rw [hv] at hw; rcases hw with hw | hw | hw <;> cases hw
        · exact hv
      exact .inr ⟨⟨t, g, p, rfl⟩, hready, Quad.get_set_same ..⟩
    · exact .inl (congrArg ViewSlot.nodes (Quad.get_set_other _ _ hwv))
  case load =>
    intro t g p s v rs _ hv _ w hw
    have hwv : w ≠ v := by
      rintro rfl
      rcases hv with hv | hv <;> rw [hv] at hw <;> rcases hw with hw | hw | hw <;> cases hw
    exact .inl (congrArg ViewSlot.nodes (Quad.get_set_other _ _ hwv))
  case select => exact fun v _ _ w _ => .inl ((enter_nodes ..).trans (moveSlots_nodes ..))
  case reselect => exact fun _ v _ => .inl (moveSlots_nodes ..)
  case withdraw => exact fun _ v _ => .inl (moveSlots_nodes ..)
  case closeView => exact fun v _ _ _ _ w _ => .inl (enter_nodes ..)
  case scanned => exact fun k _ _ _ _ w _ => .inl (enter_nodes ..)
  case unscanned => exact fun k _ _ _ w _ => .inl (enter_nodes ..)
  case frameStart => exact fun _ _ _ _ v _ => .inl (by rw [State.startFrame_vs]; exact VS.frameStart_nodes ..)
  case reopens =>
    rintro t cam p s f x s1 - - - rfl - v -
    exact .inl (by simp)
  all_goals
    intros
    exact .inl (by simp)

/-! ### The ACTIVE slot -/

/-- Replacing a slot that is not ACTIVE by another that is not leaves the ACTIVE slot. -/
theorem active_set {q : Quad ViewSlot} {v : Fin 4} (hold : (q.get v).state ≠ .active) {x : ViewSlot}
    (hx : x.state ≠ .active) (w : Fin 4) : ((q.set v x).get w).state = .active ↔ (q.get w).state = .active := by
  rw [Quad.get_set]
  split
  case isTrue h => rw [h]; exact iff_of_false hx hold
  case isFalse => exact Iff.rfl

/-- A slot that is ACTIVE is not the one that is replaced. -/
theorem get_set_of_active {q : Quad ViewSlot} {v w : Fin 4} (hold : (q.get v).state ≠ .active) (x : ViewSlot)
    (hw : (q.get w).state = .active) : (q.set v x).get w = q.get w :=
  Quad.get_set_other _ _ fun he => hold (he ▸ hw)

theorem moveSlots_of_active {q : Quad ViewSlot} {w : Fin 4} (hw : (q.get w).state = .active) :
    (moveSlots q .pending .ready).get w = q.get w := by
  rw [moveSlots_get, if_neg (by rw [hw]; nofun)]

/-- Withdrawing the pending selection leaves the ACTIVE slot. -/
theorem active_deselect (q : Quad ViewSlot) (w : Fin 4) :
    ((moveSlots q .pending .ready).get w).state = .active ↔ (q.get w).state = .active :=
  (moveSlots_state (by nofun) q w).2 .active nofun nofun

theorem active_of_exec {c : Instr} {s s' : State} (h : exec c s = .next s') :
    s.viewsLawful → (∀ t, c ≠ .outputFrameStart t) → (∀ t g p, c ≠ .restart t g p) → (∀ a b, c ≠ .powerOn a b) →
      ∀ v, (s'.vs.slots.get v).state = .active ↔ (s.vs.slots.get v).state = .active := by
  apply exec_rules (h := h)
    (W := fun c s w => (∀ t g p, c ≠ .restart t g p) →
      ∀ v, (w.vs.slots.get v).state = .active ↔ (s.vs.slots.get v).state = .active)
    (Q := fun c s s' => s.viewsLawful → (∀ t, c ≠ .outputFrameStart t) → (∀ t g p, c ≠ .restart t g p) →
      (∀ a b, c ≠ .powerOn a b) → ∀ v, (s'.vs.slots.get v).state = .active ↔ (s.vs.slots.get v).state = .active)
  case answered => exact fun _ _ hw _ _ _ hr _ => hw hr
  case restart => exact fun _ hc => absurd rfl (hc _ _ _)
  case powerOn => exact fun a b _ _ _ hc => absurd rfl (hc a b)
  case frameStart => exact fun _ _ _ _ hc => absurd rfl (hc _)
  case clear =>
    intro t g p s v hv _ w
    exact active_set (by rcases hv with hv | hv | hv <;> rw [hv] <;> nofun) (by nofun) w
  case load =>
    intro t g p s v rs _ hv _ w
    exact active_set (by rcases hv with hv | hv <;> rw [hv] <;> nofun) (by nofun) w
  case select =>
    intro t g p s v hv _ w
    have hmid : (moveSlots s.vs.slots .pending .ready).get v = s.vs.slots.get v := by
      rw [moveSlots_get, if_neg (by rw [hv]; nofun)]
    exact (active_set (by rw [hmid, hv]; nofun) (by nofun) w).trans (active_deselect ..)
  case reselect => exact fun _ w => active_deselect ..
  case withdraw => exact fun _ w => active_deselect ..
  case closeView => exact fun v _ _ hv _ _ _ _ w => active_set (by rw [hv]; nofun) (by nofun) w
  case scanned =>
    intro t s k data hk _ h _ _ _ w
    exact active_set (by rw [(h.closing k.slot).mpr (by rw [hk]; rfl)]; nofun) (by nofun) w
  case unscanned =>
    intro t s k data hk h _ _ _ w
    exact active_set (by rw [(h.closing k.slot).mpr (by rw [hk]; rfl)]; nofun) (by nofun) w
  case reopens =>
    rintro t cam p s f x s1 - - - rfl - - - - v
    simp
  all_goals
    intros
    simp

/-! ### The view of the frame in progress -/

/-- The set of the frame in progress is the same and so is the ACTIVE slot, or there is no frame in progress any more. -/
def State.FrameView (s s' : State) : Prop :=
  s'.ce.set = none ∨
  (s'.ce.set = s.ce.set ∧ ∀ v, (s.vs.slots.get v).state = .active → s'.vs.slots.get v = s.vs.slots.get v)

theorem frameView_of_exec {c : Instr} {s s' : State} (h : exec c s = .next s') :
    s.viewsLawful → (∀ t, c ≠ .outputFrameStart t) → s.FrameView s' := by
  apply exec_rules (h := h) (W := fun _ s w => s.FrameView w)
    (Q := fun c s s' => s.viewsLawful → (∀ t, c ≠ .outputFrameStart t) → s.FrameView s')
  case answered => exact fun _ _ hw _ _ _ => hw
  case restart => exact fun _ => .inl rfl
  case powerOn => exact fun _ _ _ _ => .inl rfl
  case frameEnd => exact fun _ _ _ _ _ => .inl (by rw [State.endFrame_ce])
  case frameStart => exact fun _ _ _ _ hc => absurd rfl (hc _)
  case clear =>
    intro t g p s v hv
    exact .inr ⟨rfl, fun w hw => get_set_of_active (by rcases hv with hv | hv | hv <;> rw [hv] <;> nofun) _ hw⟩
  case load =>
    intro t g p s v rs _ hv
    exact .inr ⟨rfl, fun w hw => get_set_of_active (by rcases hv with hv | hv <;> rw [hv] <;> nofun) _ hw⟩
  case select =>
    intro t g p s v hv
    refine .inr ⟨rfl, fun w hw => (Quad.get_set_other _ _ ?_).trans (moveSlots_of_active hw)⟩
    rintro rfl
    rw [hv] at hw
    cases hw
  case reselect => exact .inr ⟨rfl, fun w hw => moveSlots_of_active hw⟩
  case withdraw => exact .inr ⟨rfl, fun w hw => moveSlots_of_active hw⟩
  case closeView =>
    exact fun v _ _ hv _ _ => .inr ⟨rfl, fun w hw => get_set_of_active (by rw [hv]; nofun) _ hw⟩
  case scanned =>
    intro t s k data hk _ h _
    exact .inr ⟨rfl, fun w hw => get_set_of_active (by rw [(h.closing k.slot).mpr (by rw [hk]; rfl)]; nofun) _ hw⟩
  case unscanned =>
    intro t s k data hk h _
    exact .inr ⟨rfl, fun w hw => get_set_of_active (by rw [(h.closing k.slot).mpr (by rw [hk]; rfl)]; nofun) _ hw⟩
  case read =>
    exact fun c slot n no k x u v w h' _ _ _ =>
      .inr ⟨((State.arrive _ _).completeTaps_continues _ c slot n _ no k x u v w h').1, fun _ _ => by simp⟩
  case lineComplete => exact fun hce _ _ _ _ => .inr ⟨(CE.afterLine_kept _ _ hce).set, fun _ _ => rfl⟩
  case active => exact fun k _ _ _ => .inr ⟨(State.emitLine_continues ..).1, fun _ _ => by simp⟩
  case reopens =>
    rintro t cam p s f x s1 - - - rfl - -
    exact .inr ⟨by simp, fun _ _ => by simp⟩
  all_goals
    intros
    exact .inr ⟨by simp, fun _ _ => by simp⟩

/-! ### The engine waits for taps -/

/-- An engine that has not finished its line waits for the taps of some camera. -/
def CE.Waits (ce : CE) (nodes : List (Nat × NodeRecord)) : Prop :=
  ce.set.isSome = true → ce.state = .composing → ce.pixels.length < 720 → ce.wanted nodes ≠ []

/-- With fuel for the rest of the line, settling ends where taps are wanted or the line is whole. -/
theorem CE.settle_waits (nodes : List (Nat × NodeRecord)) (n : Nat) (ce : CE) (hfuel : 720 ≤ ce.pixels.length + n) :
    (CE.settle nodes n ce).Waits nodes := by
  induction n generalizing ce with
  | zero => exact fun _ _ hp => absurd (show ce.pixels.length < 720 from hp) (by omega)
  | succ n ih =>
    unfold CE.settle
    split
    case isTrue h =>
      refine ih _ ?_
      rw [(ce.compose_frame nodes).2.2.2.2.2 h.2.2.1]
      omega
    case isFalse h => exact fun hset hstate hp hw => h ⟨hstate, hp, hset, hw⟩

theorem CE.waits_of_state {ce : CE} {nodes : List (Nat × NodeRecord)} (h : ce.state ≠ .composing) : ce.Waits nodes :=
  fun _ hs => absurd hs h

theorem CE.waits_of_set_none {ce : CE} {nodes : List (Nat × NodeRecord)} (h : ce.set = none) : ce.Waits nodes := by
  intro hs
  rw [h] at hs
  cases hs

section
variable {ce : CE} {nodes : List (Nat × NodeRecord)}

theorem CE.beginLine_waits (ce : CE) (nodes : List (Nat × NodeRecord)) (k : Nat) : (ce.beginLine nodes k).Waits nodes :=
  CE.settle_waits nodes 720 _ (Nat.le_add_left ..)

theorem CE.Waits.lineLeft (h : ce.Waits nodes) : (ce.lineLeft nodes).Waits nodes := by
  unfold CE.lineLeft
  split
  · exact CE.beginLine_waits _ _ _
  · exact h

theorem CE.Waits.abandonLine (h : ce.Waits nodes) (k : Nat) : (ce.abandonLine nodes k).Waits nodes := by
  unfold CE.abandonLine
  split
  · split
    · exact CE.beginLine_waits _ _ _
    · exact CE.waits_of_state nofun
  · exact h

theorem CE.afterLine_waits (ce : CE) (nodes : List (Nat × NodeRecord)) (held : Nat) : (ce.afterLine nodes held).Waits nodes := by
  unfold CE.afterLine
  dsimp only
  split
  · split
    · exact CE.beginLine_waits _ _ _
    · exact CE.waits_of_state nofun
  · exact CE.waits_of_state nofun

theorem CE.Waits.deliver (h : ce.Waits nodes) (c : Camera) (no : Count) (k x : Nat) (y : Yuv) :
    (ce.deliver nodes c no k x y).Waits nodes := by
  unfold CE.deliver
  split
  · exact CE.settle_waits nodes 720 _ (Nat.le_add_left ..)
  · exact h

theorem CE.Waits.cutCamera (h : ce.Waits nodes) (c : Camera) (no : Count) : (ce.cutCamera nodes c no).Waits nodes := by
  unfold CE.cutCamera
  split
  · exact CE.settle_waits nodes 720 _ (Nat.le_add_left ..)
  · exact h

end

theorem waits_of_exec {c : Instr} {s s' : State} (h : exec c s = .next s') :
    (∀ t, c ≠ .outputFrameStart t) → s.ce.Waits s.nodes → s'.ce.Waits s.nodes := by
  apply exec_rules (h := h) (W := fun _ s w => s.ce.Waits s.nodes → w.ce.Waits s.nodes)
    (Q := fun c s s' => (∀ t, c ≠ .outputFrameStart t) → s.ce.Waits s.nodes → s'.ce.Waits s.nodes)
  case answered => exact fun _ _ hw _ _ h => hw h
  case restart => exact fun _ _ => CE.waits_of_set_none rfl
  case powerOn => exact fun _ _ _ _ => CE.waits_of_set_none rfl
  case frameEnd => exact fun _ _ _ _ _ => CE.waits_of_set_none (by rw [State.endFrame_ce])
  case frameStart => exact fun _ _ _ hc => absurd rfl (hc _)
  case read =>
    intro t ups s c slot n no k x u v w h' _ _ h
    rcases (s.arrive t).completeTaps_ce t c slot n ups no k x u v w h' with he | he <;> rw [he]
    · exact h.deliver c no k x _
    · exact h.cutCamera c no
  case lineComplete => exact fun _ _ _ _ _ => CE.afterLine_waits _ _ _
  case active =>
    intro t s k _ _ h
    rcases State.emitLine_ce ((s.arrive t).setOp { s.op with counter := s.op.counter + 1, emitting := none }) k t with
      he | he <;> rw [he]
    · exact h.lineLeft
    · exact h.abandonLine k
  case reopens =>
    rintro t cam p s f x s1 - - - rfl - h
    simpa using h
  all_goals
    intros
    rename_i h
    simpa using h

/-! ### Frame starts -/

/-- The engine composes line 0 of the set that the frame start fixes, whose view is the ACTIVE slot (R22, R118). -/
theorem State.startFrame_ce (s : State) (t : Stamp) :
    ∃ set, set.view = s.vs.frameStart.activeSlot ∧
      (s.startFrame t).ce = s.ce.frameStart (s.startFrame t).nodes set := by
  obtain ⟨set, nodes, hce, hview, hnodes⟩ : ∃ (set : CompSet) (nodes : List (Nat × NodeRecord)),
      (s.startFrame t).ce = s.ce.frameStart nodes set ∧ set.view = s.vs.frameStart.activeSlot ∧
      nodes = (match set.view with
        | some v => (s.vs.frameStart.slots.get v).nodes
        | none => []) := by
    unfold State.startFrame
    exact ⟨_, _, (State.setOp_ce ..).trans (State.setCe_ce ..), rfl, rfl⟩
  have hset : (s.startFrame t).ce.set = some set := by rw [hce, CE.frameStart_set]
  refine ⟨set, hview, ?_⟩
  rw [hce, State.nodes, hset, State.startFrame_vs, hnodes]
  rfl

theorem exec_outputFrameStart_next {s s' : State} {t : Stamp} (h : exec (.outputFrameStart t) s = .next s') :
    s' = s.arrive t ∨ s' = (s.arrive t).startFrame t := by
  change execOutputFrameStart t s = _ at h
  unfold execOutputFrameStart at h
  split at h
  · exact .inr (Host.Outcome.next.inj h).symm
  · exact .inl (Host.Outcome.next.inj h).symm

theorem VS.activeSlot_some {v : VS} {i : Fin 4} (h : v.activeSlot = some i) : (v.slots.get i).state = .active := by
  unfold VS.activeSlot Quad.find at h
  simpa using List.find?_some h

end Sys2Proof.Machine

namespace Sys2Proof.Proofs
open Sys2Proof Sys2Proof.Machine

/-- Settles O12: between a frame start and the frame's end the engine's events keep the set, and nothing else reaches it. -/
theorem compositionSetFixed : Obligations.CompositionSetFixed := by
  intro c s s' h hstart hend hrestart hpower
  refine set_of_exec h ?_
  rintro (⟨t, hc⟩ | ⟨t, hc⟩ | ⟨t, g, p, hc⟩ | ⟨a, b, hc⟩)
  · exact hstart t hc
  · exact hend t hc
  · exact hrestart t g p hc
  · exact hpower a b hc

/-- Settles O13: LOAD_NODES and the scan reach no slot with a whole table, and the selection moves slots between READY and
PENDING. -/
theorem viewsStay : Obligations.ViewsStay :=
  ⟨fun _ _ _ v h hv hc => tables_of_exec h hc v hv,
    fun _ _ _ v hlaw h hstart hrestart hpower => active_of_exec h hlaw hstart hrestart hpower v⟩

/-- Settles O57: with 720 pixels of fuel settling stops only where taps are wanted, and the view that a frame reads is the
ACTIVE slot, whose table stays. -/
theorem engineWaitsForTaps : Obligations.EngineWaitsForTaps := by
  refine keeps_of_exec (fun s t ⟨hv, hw⟩ => ⟨hv.congr rfl rfl rfl, hw⟩) (fun s l ⟨hv, hw⟩ => ⟨hv.congr rfl rfl rfl, hw⟩) ?_
  rintro c s s' ⟨hlaw, hframe⟩ h
  refine ⟨viewsLawful_of_exec h hlaw, ?_⟩
  by_cases hc : ∃ t, c = .outputFrameStart t
  case pos =>
    obtain ⟨t, rfl⟩ := hc
    rcases exec_outputFrameStart_next h with rfl | rfl
    · exact hframe
    · intro set hset
      obtain ⟨fixed, hview, hce⟩ := (s.arrive t).startFrame_ce t
      have hwaits : ((s.arrive t).startFrame t).ce.Waits ((s.arrive t).startFrame t).nodes :=
        hce ▸ CE.beginLine_waits _ _ _
      refine ⟨fun v hv => ?_, hwaits (by rw [hset]; rfl)⟩
      rw [hce, CE.frameStart_set] at hset
      obtain rfl := Option.some.inj hset
      rw [State.startFrame_vs]
      exact VS.activeSlot_some (hview.symm.trans hv)
  case neg =>
    have hno : ∀ t, c ≠ .outputFrameStart t := fun t he => hc ⟨t, he⟩
    intro set hset
    rcases frameView_of_exec h hlaw hno with hnone | ⟨hsame, hactive⟩
    · rw [hnone] at hset
      cases hset
    · rw [hsame] at hset
      obtain ⟨hview, hwait⟩ := hframe set hset
      have hnodes : s'.nodes = s.nodes := by
        unfold State.nodes
        rw [hsame, hset]
        dsimp only [Option.bind_some]
        cases hv : set.view with
        | none => rfl
        | some v => exact congrArg ViewSlot.nodes (hactive v (hview v hv))
      refine ⟨fun v hv => by rw [hactive v (hview v hv)]; exact hview v hv, fun hs hp => ?_⟩
      rw [hnodes]
      exact waits_of_exec h hno (fun _ => hwait) (by rw [hsame, hset]; rfl) hs hp

end Sys2Proof.Proofs
end

section
set_option deprecated.oldSectionVars true -- proofs in sequence: their tasks would not fit the thread limit
/-! The laws of the notice unit (R158, R161, R163, R165) and of the fault unit (R148, R152, R153): blocks report faults and
raise notices, and only the requests on the two units, a frame start, RESTART and POWER_ON do more to them. -/
namespace Sys2Proof.Machine

/-! ### What blocks report -/

/-- The notice unit after some raises. -/
def NQ.Raised : NQ → NQ → Prop := Relation.ReflTransGen fun a b => ∃ k src d t, b = a.raise k src d t

/-- The fault unit after some recordings. -/
def FU.Recorded : FU → FU → Prop := Relation.ReflTransGen fun a b => ∃ r, b = a.record r

theorem NQ.raised_raise (q : NQ) (k : NoticeKind) (src : NoticeSource) (d : Nat) (t : Stamp) :
    q.Raised (q.raise k src d t) := .single ⟨k, src, d, t, rfl⟩

/-- What every raise keeps is kept by any number of them. -/
theorem NQ.Raised.induct {p : NQ → Prop} (hp : ∀ q k src d t, p q → p (q.raise k src d t)) {q q' : NQ} (h : q.Raised q')
    (hq : p q) : p q' := by
  induction h with
  | refl => exact hq
  | tail _ hstep ih =>
    obtain ⟨k, src, d, t, rfl⟩ := hstep
    exact hp _ k src d t ih

theorem FU.Recorded.induct {p : FU → Prop} (hp : ∀ f r, p f → p (f.record r)) {f f' : FU} (h : f.Recorded f')
    (hf : p f) : p f' := by
  induction h with
  | refl => exact hf
  | tail _ hstep ih =>
    obtain ⟨r, rfl⟩ := hstep
    exact hp _ r ih

/-- Between the two states faults have been handed and notices raised, and nothing else has reached the two units. -/
def State.Reported (s s' : State) : Prop := s.fu.Recorded s'.fu ∧ s.nq.Raised s'.nq

section
variable {s s' s'' : State}

theorem State.reported_of_eq (hfu : s'.fu = s.fu) (hnq : s'.nq = s.nq) : s.Reported s' := by
  unfold State.Reported
  rw [hfu, hnq]
  exact ⟨.refl, .refl⟩

theorem State.Reported.trans (h : s.Reported s') (h' : s'.Reported s'') : s.Reported s'' :=
  ⟨Relation.ReflTransGen.trans h.1 h'.1, Relation.ReflTransGen.trans h.2 h'.2⟩

theorem State.Reported.refl (s : State) : s.Reported s := ⟨.refl, .refl⟩

theorem State.Reported.arrived (s : State) (t : Stamp) : s.Reported (s.arrive t) := State.reported_of_eq rfl rfl

theorem State.Reported.received (s : State) (t : Stamp) (cam : Camera) (r : Receiver) :
    s.Reported ((s.arrive t).setReceiver cam r) := State.reported_of_eq rfl rfl

/-- A step that leaves the two units, after a report. -/
theorem State.Reported.of_eq (h : s.Reported s') (hfu : s''.fu = s'.fu) (hnq : s''.nq = s'.nq) : s.Reported s'' :=
  h.trans (State.reported_of_eq hfu hnq)

variable (h : s.Reported s')
include h

theorem State.Reported.raise (k : NoticeKind) (src : NoticeSource) (d : Nat) (t : Stamp) : s.Reported (s'.raise k src d t) :=
  h.trans ⟨.refl, NQ.raised_raise ..⟩

theorem State.Reported.raiseIf (k : Option NoticeKind) (src : NoticeSource) (t : Stamp) :
    s.Reported (s'.raiseIf k src t) := by
  unfold State.raiseIf
  split
  · exact h.raise ..
  · exact h

theorem State.Reported.handFault (r : FaultReport) : s.Reported (s'.handFault r) := by
  refine h.trans ⟨?_, ?_⟩
  · rw [State.handFault_fu]
    exact .single ⟨r, rfl⟩
  · rw [State.handFault_nq]
    split
    · exact .refl
    · exact NQ.raised_raise ..

theorem State.Reported.handFault_if (p : Prop) [Decidable p] (r : FaultReport) :
    s.Reported (if p then s'.handFault r else s') := by
  split
  · exact h.handFault r
  · exact h

theorem State.Reported.closeBad (c : Camera) (f : OpenFrame) (x : Failure) (t : Stamp) :
    s.Reported (s'.closeBad c f x t) := by
  unfold State.closeBad
  extract_lets r v s1
  have hs1 : s.Reported s1 := h.handFault_if _ _
  have hs2 : s.Reported (s1.setReceiver c (r.closeBad x v)) := hs1.of_eq rfl rfl
  exact hs2.raiseIf ..

theorem State.Reported.closeGood (c : Camera) (i : Info) (t : Stamp) : s.Reported (s'.closeGood c i t) := by
  unfold State.closeGood
  extract_lets r v s1 s2 _ s3
  have hs1 : s.Reported s1 := h.handFault_if _ _
  have hs2 : s.Reported s2 := hs1.of_eq rfl rfl
  refine State.Reported.raiseIf ?_ ..
  unfold s3
  split
  · exact hs2.of_eq rfl rfl
  · exact hs2

theorem State.Reported.looked (t : Stamp) (errors : List (Nat × WordError)) (words : List Nat) (c : Camera) (slot : Fin 3)
    (n : Half) : s.Reported (s'.looked t errors words c slot n) := by
  have hset : s.Reported (s'.setFmc { s'.fmc with transfer := none, wordErrors := errors }) := h.of_eq rfl rfl
  rcases s'.looked_cases t errors words c slot n with he | he <;> rw [he]
  · exact hset
  · exact hset.handFault _

theorem State.Reported.poison (t : Stamp) (c : Camera) (slot : Fin 3) (n : Half) (no : Count) :
    s.Reported (s'.poison t c slot n no) := by
  unfold State.poison
  refine State.Reported.handFault (h.of_eq ?_ ?_) _
  · rw [State.setCe_fu, State.setRing_fu, State.afterPoisonLine_fu]
  · rw [State.setCe_nq, State.setRing_nq, State.afterPoisonLine_nq]

theorem State.Reported.completeTaps (t : Stamp) (c : Camera) (slot : Fin 3) (n : Half)
    (ups : List (Nat × WordError)) (no : Count) (k x : Nat) (u v : Int) (w hh : Nat) :
    s.Reported (s'.completeTaps t ups c slot n no k x u v w hh) := by
  rw [State.completeTaps_eq]
  split
  · exact (h.looked ..).poison ..
  · exact State.Reported.of_eq (h.looked ..) (State.setCe_fu ..) (State.setCe_nq ..)

theorem State.Reported.underrun (k : Nat) (t : Stamp) : s.Reported (s'.underrun k t) := by
  unfold State.underrun
  refine State.Reported.of_eq (State.Reported.handFault ?_ _) (State.setCe_fu ..) (State.setCe_nq ..)
  exact h.of_eq rfl rfl

theorem State.Reported.emitLine (k : Nat) (t : Stamp) : s.Reported (s'.emitLine k t) := by
  unfold State.emitLine
  split
  · split
    · exact h.of_eq ((State.setCe_fu ..).trans (State.setOp_fu ..)) ((State.setCe_nq ..).trans (State.setOp_nq ..))
    · exact h.underrun k t
  · exact h.underrun k t

theorem State.Reported.stopOutput (t : Stamp) : s.Reported (s'.stopOutput t) :=
  State.Reported.raise (h.of_eq rfl rfl) ..

end

theorem State.Reported.raiseStales {s s' : State} (cls : Quad StartClass) (t : Stamp)
    (l : List Camera) (h : s.Reported s') :
    s.Reported (l.foldl (State.raiseStale cls t) s') := by
  induction l generalizing s' with
  | nil => exact h
  | cons c l ih =>
    refine ih ?_
    unfold State.raiseStale
    split
    · exact h.raise ..
    · exact h

/-- A frame start raises notices, and leaves the fault unit to the evaluation of the withheld set. -/
theorem State.startFrame_raised (s : State) (t : Stamp) : s.nq.Raised (s.startFrame t).nq := by
  unfold State.startFrame
  dsimp only
  rw [State.setOp_nq, State.setCe_nq]
  refine Relation.ReflTransGen.trans ?_ (State.Reported.raiseStales _ _ _ (State.Reported.refl _)).2
  split
  · exact NQ.raised_raise ..
  · exact .refl

/-- The notice unit with a frame's summary in its history. -/
def NQ.appended (q : NQ) (x : Summary) : NQ := { q with history := appendSummary q.history x }

/-- A frame end adds a summary to the history, and raises OUTPUT_STOPPED in STOPPING. -/
theorem State.endFrame_raised (s : State) (set : CompSet) (t : Stamp) :
    (s.nq.appended (summaryOf set s.ce s.op.underruns)).Raised (s.endFrame set t).nq := by
  unfold State.endFrame
  extract_lets s1 s2
  split
  · exact ((State.Reported.refl s2).stopOutput t).2
  · exact .refl

/-! ### The law of the notice unit -/

/-- Two records have different keys. -/
def Notice.KeyNe (a b : Notice) : Prop := ¬(a.kind = b.kind ∧ a.source = b.source ∧ a.detail = b.detail)

theorem Notice.KeyNe.symm {a b : Notice} (h : a.KeyNe b) : b.KeyNe a :=
  fun ⟨h1, h2, h3⟩ => h ⟨h1.symm, h2.symm, h3.symm⟩

theorem Notice.pairwise_keyNe_iff (l : List Notice) :
    l.Pairwise Notice.KeyNe ↔ (l.map fun r => (r.kind, r.source, r.detail)).Pairwise (· ≠ ·) := by
  rw [List.pairwise_map]
  simp only [ne_eq, Prod.mk.injEq]
  exact Iff.rfl

/-- A repeat counts up to 255. -/
theorem coalesce_counts {l : List Notice} (h : ∀ r ∈ l, 1 ≤ r.count ∧ r.count ≤ 255) (k : NoticeKind)
    (src : NoticeSource) (d : Nat) (t : Stamp) : ∀ r ∈ coalesce k src d t l, 1 ≤ r.count ∧ r.count ≤ 255 := by
  induction l with
  | nil => exact h
  | cons r rest ih =>
    obtain ⟨hr, hrest⟩ := List.forall_mem_cons.mp h
    rw [coalesce]
    split
    · exact List.forall_mem_cons.mpr ⟨by simp only [Notice.again]; omega, hrest⟩
    · exact List.forall_mem_cons.mpr ⟨hr, ih hrest⟩

theorem attentionDue_eq_map (l : List Notice) (th : Fin 4) :
    attentionDue l th = (l.map Notice.priority).any fun p => decide (th ≤ p) := by
  rw [attentionDue, List.any_map]
  rfl

section
variable {q : NQ}

/-- A queue of the same notices, or fewer, and one that has none of their keys. -/
theorem NQ.lawful.placed (h : q.lawful) {l : List Notice} (hl : l.Sublist q.queue) (hlen : l.length < 32) {n : Notice}
    (hn : ∀ r ∈ q.queue, n.KeyNe r) (hcount : n.count = 1) (lost : Bool) :
    ({ q with queue := placeNotice l n, lost := lost } : NQ).evaluate.lawful where
  depth := by
    change (placeNotice l n).length ≤ 32
    rw [placeNotice_length]
    exact hlen
  keys := by
    refine ((placeNotice_perm l n).pairwise_iff fun h => Notice.KeyNe.symm h).mpr ?_
    exact List.pairwise_cons.mpr ⟨fun r hr => hn r (hl.subset hr), h.keys.sublist hl⟩
  counts r hr := by
    rcases List.mem_cons.mp ((placeNotice_perm l n).mem_iff.mp hr) with rfl | hr
    · omega
    · exact h.counts r (hl.subset hr)
  attention := rfl
  history := h.history

theorem NQ.lawful.raise (h : q.lawful) (k : NoticeKind) (src : NoticeSource) (d : Nat) (t : Stamp) :
    (q.raise k src d t).lawful := by
  rcases q.raise_cases k src d t with ⟨-, he⟩ | ⟨-, -, he⟩ | ⟨-, hnew, he⟩ <;> rw [he]
  · exact h
  · exact
      { depth := by dsimp only; rw [coalesce_length]; exact h.depth
        keys := by
          dsimp only
          have hk := (Notice.pairwise_keyNe_iff q.queue).mp h.keys
          rw [← coalesce_map _ (fun _ _ => rfl) k src d t] at hk
          exact (Notice.pairwise_keyNe_iff _).mpr hk
        counts := coalesce_counts h.counts k src d t
        attention := by
          have ha : q.attention = attentionDue q.queue q.threshold := h.attention
          rw [attentionDue_eq_map, ← coalesce_map _ (fun _ _ => rfl) k src d t, ← attentionDue_eq_map] at ha
          exact ha
        history := h.history }
  · have hkey : ∀ r ∈ q.queue, Notice.KeyNe ⟨k, src, d, t, t, 1, (q.policy.get k).priority⟩ r := by
      rintro r hr ⟨hk, hsrc, hd⟩
      exact absurd (Notice.hasKey_iff.mpr ⟨hk.symm, hsrc.symm, hd.symm⟩) (List.any_eq_false.mp hnew r hr)
    unfold NQ.insert Config.noticeQueueDepth
    split
    case isTrue hroom => exact h.placed (.refl _) hroom hkey rfl q.lost
    case isFalse hfull =>
      split
      case isTrue hlow =>
        have hlen := removeLastOf_length (lowestPriority_present (hlow.trans_le (Fin.le_last _)))
        exact h.placed (removeLastOf_sublist _ _) (by have := h.depth; omega) hkey rfl true
      case isFalse => exact ⟨h.depth, h.keys, h.counts, h.attention, h.history⟩

theorem NQ.lawful.raised (h : q.lawful) {q' : NQ} (hr : q.Raised q') : q'.lawful :=
  hr.induct (fun _ k src d t h => h.raise k src d t) h

theorem NQ.lawful.fetch (h : q.lawful) (n : Nat) : (q.fetch n).lawful where
  depth := (List.drop_sublist n _).length_le.trans h.depth
  keys := h.keys.sublist (List.drop_sublist n _)
  counts r hr := h.counts r (List.mem_of_mem_drop hr)
  attention := rfl
  history := h.history

/-- Another policy, after which the attention line is evaluated. -/
theorem NQ.lawful.configure (h : q.lawful) (pol : PerNotice NoticePolicy) (th : Fin 4) (high : Bool) :
    ({ q with policy := pol, threshold := th, activeHigh := high } : NQ).evaluate.lawful :=
  ⟨h.depth, h.keys, h.counts, rfl, h.history⟩

theorem NQ.restart_lawful (q : NQ) : q.restart.lawful :=
  ⟨Nat.zero_le _, .nil, fun _ hr => absurd hr List.not_mem_nil, rfl, Nat.zero_le _⟩

theorem NQ.reset_lawful : NQ.reset.lawful :=
  ⟨Nat.zero_le _, .nil, fun _ hr => absurd hr List.not_mem_nil, rfl, Nat.zero_le _⟩

theorem NQ.lawful.appended (h : q.lawful) (x : Summary) : (q.appended x).lawful :=
  ⟨h.depth, h.keys, h.counts, h.attention, appendSummary_length_le _ _⟩

theorem State.Reported.nqLawful {s s' : State} (hr : s.Reported s') (h : s.nq.lawful) : s'.nq.lawful := h.raised hr.2

end

theorem nqLawful_of_exec {c : Instr} {s s' : State} (h : exec c s = .next s') : s.nq.lawful → s'.nq.lawful := by
  apply exec_rules (h := h) (W := fun _ s w => s.nq.lawful → w.nq.lawful)
    (Q := fun _ s s' => s.nq.lawful → s'.nq.lawful)
  case answered => exact fun _ _ hw _ h => hw h
  case stop => exact fun _ _ h => ((State.Reported.refl _).stopOutput _).nqLawful h
  case restart => exact fun _ _ => NQ.restart_lawful _
  case fetch => exact fun n h => h.fetch n
  case noticePolicy => exact fun pol th high h => h.configure pol th high
  case powerOn => exact fun _ _ _ => NQ.reset_lawful
  case untrained => exact fun _ _ h => h.raise ..
  case filled => exact fun _ _ h => h.raise ..
  case reopens =>
    rintro t cam p s f x s1 - - - rfl h
    exact State.Reported.nqLawful (s' := State.closeBad _ cam f x t) ((State.Reported.refl _).closeBad ..) h
  case closesBad => exact fun f x _ _ _ h => ((State.Reported.refl _).closeBad ..).nqLawful h
  case closesGood => exact fun f i _ _ _ h => ((State.Reported.refl _).closeGood ..).nqLawful h
  case silenced =>
    intro t cam s r _ h
    exact NQ.lawful.raise (((State.Reported.refl (s.arrive t)).handFault r).nqLawful h) _ _ _ _
  case read => exact fun c slot n no k x u v w h' _ h => ((State.Reported.refl _).completeTaps ..).nqLawful h
  case active => exact fun k _ h => ((State.Reported.refl _).emitLine ..).nqLawful h
  case frameStart => exact fun {t s} _ _ _ h => h.raised ((s.arrive t).startFrame_raised t)
  case frameEnd => exact fun {t s} set _ _ h => (h.appended _).raised ((s.arrive t).endFrame_raised set t)
  all_goals
    intros
    rename_i h
    simpa using h

end Sys2Proof.Machine

namespace Sys2Proof.Proofs
open Sys2Proof Sys2Proof.Machine

/-- Settles O7: what blocks do to the notice unit is to raise notices, and a raise keeps the law by its three branches. -/
theorem noticeLawKept : Obligations.NoticeLawKept :=
  keeps_of_exec (fun _ _ h => h) (fun _ _ h => h) fun _ _ _ h he => nqLawful_of_exec he h

end Sys2Proof.Proofs
end

section
set_option deprecated.oldSectionVars true -- proofs in sequence: their tasks would not fit the thread limit
/-! What the fault unit keeps (R148, R152, R153), and the ranges of the settings (R44, R113, R131, R132, R149). -/
namespace Sys2Proof.Machine

/-! ### The fault unit -/

/-- The first-fault record, where it is occupied, describes the same fault, and its more-faults flag is not cleared. -/
def FU.FirstStays (f f' : FU) : Prop :=
  ∀ x, f.first = some x → ∃ more, f'.first = some ⟨x.fault, more⟩ ∧ (x.more = true → more = true)

def FU.MarksStay (f f' : FU) : Prop := ∀ src k, (f.marks src).get k = true → (f'.marks src).get k = true

def FU.WithheldStays (f f' : FU) : Prop := f'.withheld = f.withheld ∧ f'.withheldFrame = f.withheldFrame

theorem FU.firstStays_of_eq {f f' : FU} (h : f'.first = f.first) : f.FirstStays f' :=
  fun x hx => ⟨x.more, h.trans hx, id⟩

theorem FU.FirstStays.trans {f g k : FU} (h : f.FirstStays g) (h' : g.FirstStays k) : f.FirstStays k := by
  intro x hx
  obtain ⟨more, hg, hm⟩ := h x hx
  obtain ⟨more', hk, hm'⟩ := h' _ hg
  exact ⟨more', hk, hm' ∘ hm⟩

theorem FU.firstStays_record (f : FU) (r : FaultReport) : f.FirstStays (f.record r) := by
  intro x hx
  rw [FU.record_first, hx, capture_some]
  split
  · exact ⟨x.more, rfl, id⟩
  · exact ⟨true, rfl, fun _ => rfl⟩

/-- Whatever faults are recorded, record, marks, withheld set and policy stay. -/
theorem FU.Recorded.stays {f f' : FU} (h : f.Recorded f') :
    f.FirstStays f' ∧ f.MarksStay f' ∧ f.WithheldStays f' ∧ f'.policy = f.policy := by
  refine h.induct (p := fun g => f.FirstStays g ∧ f.MarksStay g ∧ f.WithheldStays g ∧ g.policy = f.policy) ?_ ?_
  · rintro g r ⟨hfirst, hmarks, ⟨hw, hn⟩, hp⟩
    obtain ⟨hp', hw', hn'⟩ := g.record_frame r
    refine ⟨hfirst.trans (g.firstStays_record r), fun src k hk => ?_, ⟨hw'.trans hw, hn'.trans hn⟩, hp'.trans hp⟩
    rw [FU.record_marks, hmarks src k hk, Bool.or_true]
  · exact ⟨FU.firstStays_of_eq rfl, fun _ _ h => h, ⟨rfl, rfl⟩, rfl⟩

/-- The requests that clear the first-fault record or marks, and the frame start that evaluates the withheld set, apart,
what every other command keeps of the fault unit. -/
def FU.StaysUnder (c : Instr) (f f' : FU) : Prop :=
  ((∀ t g p, c ≠ .clearFaults t g p) → f.FirstStays f') ∧
  ((∀ t g p, c ≠ .clearFaults t g p) → (∀ t g p, c ≠ .resetCamera t g p) → f.MarksStay f') ∧
  ((∀ t, c ≠ .outputFrameStart t) → f.WithheldStays f')

theorem State.Reported.staysUnder {s s' : State} (h : s.Reported s') (c : Instr) : s.fu.StaysUnder c s'.fu := by
  obtain ⟨hfirst, hmarks, hw, -⟩ := h.1.stays
  exact ⟨fun _ => hfirst, fun _ _ => hmarks, fun _ => hw⟩

theorem FU.staysUnder_of_eq {f f' : FU} (h : f' = f) (c : Instr) : f.StaysUnder c f' := by
  subst h
  exact ⟨fun _ => FU.firstStays_of_eq rfl, fun _ _ _ _ h => h, fun _ => ⟨rfl, rfl⟩⟩

@[simp] theorem State.restart_fu (s : State) : s.restart.fu = s.fu.restart := by
  unfold State.restart State.cutTransfer
  dsimp only
  split <;> simp

theorem fuStays_of_exec {c : Instr} {s s' : State} (h : exec c s = .next s') :
    (∀ t g p, c ≠ .restart t g p) → (∀ a b, c ≠ .powerOn a b) → s.fu.StaysUnder c s'.fu := by
  apply exec_rules (h := h) (W := fun c s w => (∀ t g p, c ≠ .restart t g p) → s.fu.StaysUnder c w.fu)
    (Q := fun c s s' => (∀ t g p, c ≠ .restart t g p) → (∀ a b, c ≠ .powerOn a b) → s.fu.StaysUnder c s'.fu)
  case answered => exact fun _ _ hw _ hr _ => hw hr
  case restart => exact fun _ hc => absurd rfl (hc _ _ _)
  case powerOn => exact fun a b _ hc => absurd rfl (hc a b)
  case reset =>
    exact fun cam _ _ _ =>
      ⟨fun _ => FU.firstStays_of_eq (by simp [FU.resetCamera]), fun _ hc => absurd rfl (hc _ _ _),
        fun _ => by simp [FU.WithheldStays, FU.resetCamera]⟩
  case clearFaults =>
    exact fun sources kinds first _ => ⟨fun hc => absurd rfl (hc _ _ _), fun hc => absurd rfl (hc _ _ _), fun _ => ⟨rfl, rfl⟩⟩
  case faultPolicy =>
    exact fun k masked cont _ _ => ⟨fun _ => FU.firstStays_of_eq rfl, fun _ _ src k h => by cases src <;> exact h,
      fun _ => ⟨rfl, rfl⟩⟩
  case frameStart =>
    intro t s _ _ _ _ _
    rw [State.startFrame_fu]
    exact ⟨fun _ => FU.firstStays_of_eq rfl, fun _ _ src k h => by cases src <;> exact h, fun hc => absurd rfl (hc _)⟩
  case reopens =>
    rintro t cam p s f x s1 - - - rfl - -
    exact ((State.Reported.received s t cam _).closeBad cam f x t).staysUnder _
  case closesBad => exact fun f x _ _ _ _ _ => ((State.Reported.received ..).closeBad ..).staysUnder _
  case closesGood => exact fun f i _ _ _ _ _ => ((State.Reported.received ..).closeGood ..).staysUnder _
  case silenced =>
    intro t cam s r _ _ _
    exact ((State.Reported.arrived s t).handFault r).staysUnder _
  case read => exact fun c slot n no k x u v w h' _ _ _ => ((State.Reported.arrived ..).completeTaps ..).staysUnder _
  case active =>
    intro t s k _ _ _
    have hop : s.Reported ((s.arrive t).setOp { s.op with counter := s.op.counter + 1, emitting := none }) :=
      State.reported_of_eq rfl rfl
    exact (hop.emitLine k t).staysUnder _
  case frameEnd => exact fun set _ _ _ _ => FU.staysUnder_of_eq (by simp) _
  all_goals
    intros
    exact FU.staysUnder_of_eq (by simp) _

/-! ### The settings -/

section
variable {h : HU}

theorem HU.lawful.gain_mem (hl : h.lawful) (v : Nat) :
    h.settings.gmin ≤ clampNat v h.settings.gmin h.settings.gmax ∧
      clampNat v h.settings.gmin h.settings.gmax ≤ h.settings.gmax := clampNat_mem hl.order

/-- The settings as they are with other gains of the range in force. -/
theorem HU.lawful.of_gains (hl : h.lawful) {h' : HU} (hset : h'.settings = h.settings)
    (hgains : ∀ c, h.settings.gmin ≤ h'.gains.get c ∧ h'.gains.get c ≤ h.settings.gmax) : h'.lawful where
  step := hset ▸ hl.step
  low := hset ▸ hl.low
  order := hset ▸ hl.order
  high := hset ▸ hl.high
  pixels := hset ▸ hl.pixels
  gains := by rw [hset]; exact hgains

/-- What SET_HARMONISE lets pass is in range (R142). -/
theorem HU.configure_lawful {p : List Byte} {n : HarmSettings} (hn : harmSettingsOf p = some n) (h : HU) :
    (h.configure n).lawful := by
  unfold harmSettingsOf at hn
  split at hn
  case h_2 => cases hn
  dsimp only at hn
  split at hn
  case isFalse => cases hn
  case isTrue hr =>
    obtain rfl := Option.some.inj hn
    obtain ⟨hlow, -, -, hhigh, horder⟩ := hr
    refine ⟨clampNat_mem (by omega), hlow, horder, hhigh, clampNat_mem (by omega), fun c => ?_⟩
    simp only [HU.configure, Quad.get_map]
    exact clampNat_mem horder

theorem HU.lawful.update (hl : h.lawful) (no : Count) (tot : Totals) : (h.update no tot).lawful := by
  refine hl.of_gains rfl fun c => ?_
  rw [HU.update_gains_get, HU.camUpdate]
  by_cases ho : updateOutcome h.settings tot.seams c = .updated
  · have hg := movedGain_eq (h := h.settings) hl.order (h.gains.get c)
    rw [(updateCamera_of_updated (h.gains.get c) (h.relief.get c) ho).2]
    have := hg (limitedMove (h.gains.get c) (targetGain (h.gains.get c) (targetRatio
      (ownSum h.settings.nmin tot.seams c) (neighbourSum h.settings.nmin tot.seams c))) (allowedStep h.settings (h.relief.get c)))
    have := hl.order
    omega
  · rw [updateCamera_newGain_of_held _ _ ho]
    exact hl.gains c

theorem HU.lawful.restart (hl : h.lawful) : h.restart.lawful :=
  hl.of_gains rfl fun c => by rw [HU.restart, Quad.get_all]; exact hl.gain_mem 256

theorem HU.lawful.set (hl : h.lawful) (c : Camera) (v : Nat) (relief : Quad Bool) :
    ({ h with gains := h.gains.set c (clampNat v h.settings.gmin h.settings.gmax), relief := relief } : HU).lawful :=
  hl.of_gains rfl (Quad.forall_set (p := fun g => h.settings.gmin ≤ g ∧ g ≤ h.settings.gmax) hl.gains (hl.gain_mem v))

theorem HU.reset_lawful : HU.reset.lawful :=
  ⟨by decide, by decide, by decide, by decide, by decide, by decide⟩

end

@[simp] theorem State.closeGood_settings (s : State) (c : Camera) (i : Info) (t : Stamp) :
    (s.closeGood c i t).hu.settings = s.hu.settings ∧ (s.closeGood c i t).hu.gains = s.hu.gains := by
  unfold State.closeGood
  dsimp only
  split <;> split <;> simp

theorem State.restart_hu (s : State) : s.restart.hu = s.hu.restart := by
  unfold State.restart State.cutTransfer
  dsimp only
  split <;> simp

theorem State.endFrame_hu (s : State) (set : CompSet) (t : Stamp) :
    (s.endFrame set t).hu = s.hu.update set.frameNo s.ce.totals := by
  unfold State.endFrame
  dsimp only
  split <;> rfl

theorem huLawful_of_exec {c : Instr} {s s' : State} (h : exec c s = .next s') : s.hu.lawful → s'.hu.lawful := by
  apply exec_rules (h := h) (W := fun _ s w => s.hu.lawful → w.hu.lawful)
    (Q := fun _ s s' => s.hu.lawful → s'.hu.lawful)
  case answered => exact fun _ _ hw _ h => hw h
  case harmonise => exact fun n hn _ => HU.configure_lawful hn _
  case gain => exact fun cam h => h.set cam _ _
  case reset => exact fun cam _ _ h => by simpa [HU.resetCamera, HU.unity] using h.set cam 256 _
  case restart => exact fun _ h => by rw [State.restart_hu]; exact h.restart
  case powerOn => exact fun _ _ _ => HU.reset_lawful
  case closesGood =>
    intro t cam p s f i _ _ _ h
    obtain ⟨hset, hgains⟩ := State.closeGood_settings ((s.arrive t).setReceiver cam ((s.cr.get cam).touch t)) cam i t
    exact h.of_gains hset fun c => by rw [hgains]; exact h.gains c
  case frameEnd => exact fun set _ _ h => by rw [State.endFrame_hu]; exact h.update ..
  case reopens =>
    rintro t cam p s f x s1 - - - rfl h
    simpa using h
  all_goals
    intros
    rename_i h
    simpa using h

/-- A zone's rectangle lies in the canvas (R44). -/
def Zone.InRange (x : Zone) : Prop := x.i0 ≤ x.i1 ∧ x.i1 ≤ 44 ∧ x.j0 ≤ x.j1 ∧ x.j1 ≤ 59

section
variable {s s' : State}

/-- The pacing record, the zones and the policy of kinds are as they were. -/
theorem State.settingsLawful.congr (h : s.settingsLawful) (hpu : s'.pu.periodInForce = s.pu.periodInForce ∧
      s'.pu.pendingPeriod = s.pu.pendingPeriod ∧ s'.pu.maxAge = s.pu.maxAge)
    (hzones : s'.vs.zones = s.vs.zones) (hpolicy : s'.fu.policy = s.fu.policy) : s'.settingsLawful where
  period := by rw [hpu.1]; exact h.period
  next := by rw [hpu.2.1]; exact h.next
  age := by rw [hpu.2.2]; exact h.age
  zones := by rw [hzones]; exact h.zones
  severities := by rw [hpolicy]; exact h.severities

theorem State.Reported.settingsLawful (hr : s.Reported s') (hpu : s'.pu = s.pu) (hvs : s'.vs = s.vs)
    (h : s.settingsLawful) : s'.settingsLawful :=
  h.congr (by rw [hpu]; exact ⟨rfl, rfl, rfl⟩) (by rw [hvs]) hr.1.stays.2.2.2

end

@[simp] theorem VS.frameStart_zones (v : VS) : v.frameStart.zones = v.zones := by
  unfold VS.frameStart VS.takeSelection
  cases v.selection <;> rfl

theorem State.restart_pu (s : State) : s.restart.pu = { s.pu with run := .stopped } := by
  unfold State.restart State.cutTransfer
  dsimp only
  split <;> simp

/-- A CONTAINING severity reaches no kind whose severity is fixed (R149). -/
theorem severities_set {p : PerFault FaultPolicy} (h : p.silence.containing = false ∧ p.eccFixed.containing = false ∧
      p.underrun.containing = false) {k : FaultKind} {cont : Bool} (hk : (cont && k.fixedSeverity) = false) (masked : Bool) :
    (p.set k ⟨masked, cont⟩).silence.containing = false ∧ (p.set k ⟨masked, cont⟩).eccFixed.containing = false ∧
      (p.set k ⟨masked, cont⟩).underrun.containing = false := by
  obtain ⟨h1, h2, h3⟩ := h
  cases k with
  | silence | eccFixed | underrun =>
    obtain rfl : cont = false := by simpa [FaultKind.fixedSeverity] using hk
    simp [PerFault.set, PerFault.ofFn, PerFault.get, h1, h2, h3]
  | lineLength | struct | infoCrc | period | overflow | skip | poison =>
    simp [PerFault.set, PerFault.ofFn, PerFault.get, h1, h2, h3]

theorem State.reset_settingsLawful : State.reset.settingsLawful :=
  ⟨by decide, by decide, by decide, by decide, by decide⟩

theorem settingsLawful_of_exec {c : Instr} {s s' : State} (h : exec c s = .next s') :
    s.settingsLawful → s'.settingsLawful := by
  apply exec_rules (h := h) (W := fun _ s w => s.settingsLawful → w.settingsLawful)
    (Q := fun _ s s' => s.settingsLawful → s'.settingsLawful)
  case answered =>
    exact fun _ _ hw _ h => (hw (h.congr ⟨rfl, rfl, rfl⟩ rfl rfl)).congr ⟨rfl, rfl, rfl⟩ rfl rfl
  case timing =>
    exact fun per age hper hage h => ⟨h.period, hper, hage, h.zones, h.severities⟩
  case zone =>
    intro t g p s c z x hx h
    refine ⟨h.period, h.next, h.age, ?_, h.severities⟩
    exact Quad.forall_set (p := fun q => ∀ z, Zone.InRange (Quad.get q z)) h.zones
      (Quad.forall_set (p := Zone.InRange) (h.zones c) hx)
  case faultPolicy =>
    exact fun k masked cont hk h => ⟨h.period, h.next, h.age, h.zones, severities_set h.severities hk masked⟩
  case restart =>
    intro t g p s _ h
    refine h.congr ?_ ?_ ?_
    · rw [State.restart_pu]; exact ⟨rfl, rfl, rfl⟩
    · rw [State.restart_vs]; rfl
    · rw [State.restart_fu]; rfl
  case powerOn =>
    intro s a b _
    exact State.reset_settingsLawful.congr ⟨rfl, rfl, rfl⟩ rfl rfl
  case frameStart =>
    intro t s _ _ _ h
    refine ⟨?_, ?_, ?_, ?_, ?_⟩
    · rw [State.startFrame_pu]; exact h.next
    · rw [State.startFrame_pu]; exact h.next
    · rw [State.startFrame_pu]; exact h.age
    · rw [State.startFrame_vs, VS.frameStart_zones]; exact h.zones
    · rw [State.startFrame_fu]; exact h.severities
  case reopens =>
    rintro t cam p s f x s1 - - - rfl h
    have hr := ((State.Reported.received s t cam ((s.cr.get cam).touch t)).closeBad cam f x t).1.stays.2.2.2
    exact h.congr (by simp) (by simp) hr
  case closesBad =>
    exact fun f x _ _ _ h => ((State.Reported.received ..).closeBad ..).settingsLawful (by simp) (by simp) h
  case closesGood =>
    exact fun f i _ _ _ h => ((State.Reported.received ..).closeGood ..).settingsLawful (by simp) (by simp) h
  case silenced =>
    intro t cam s r _ h
    have hr := ((State.Reported.arrived s t).handFault r).1.stays.2.2.2
    exact h.congr (by simp) (by simp) hr
  case read =>
    exact fun c slot n no k x u v w h' _ h =>
      ((State.Reported.arrived ..).completeTaps ..).settingsLawful (by simp) (by simp) h
  case active =>
    intro t s k _ h
    have hop : s.Reported ((s.arrive t).setOp { s.op with counter := s.op.counter + 1, emitting := none }) :=
      State.reported_of_eq rfl rfl
    exact (hop.emitLine k t).settingsLawful (by simp) (by simp) h
  case frameEnd =>
    intro t s set _ _ h
    refine h.congr ?_ (by simp) (by simp)
    by_cases hs : s.pu.run = .stopping
    · rw [(State.endFrame_of_stopping (s := s.arrive t) hs set t).1]; exact ⟨rfl, rfl, rfl⟩
    · rw [(State.endFrame_of_not_stopping (s := s.arrive t) hs set t).1]; exact ⟨rfl, rfl, rfl⟩
  case stop => exact fun _ _ h => h.congr ⟨rfl, rfl, rfl⟩ rfl rfl
  all_goals
    intros
    rename_i h
    exact h.congr (by simp) (by simp [VS.setSlot]) (by simp [FU.resetCamera, FU.clear])

end Sys2Proof.Machine

namespace Sys2Proof.Proofs
open Sys2Proof Sys2Proof.Machine

/-- Settles O14: a recording fills an empty record, sets a mark and keeps the withheld set; nothing but the named commands
does more to the fault unit. -/
theorem faultStateStays : Obligations.FaultStateStays := by
  intro c s s' h hr hp
  obtain ⟨hfirst, hmarks, hw⟩ := fuStays_of_exec h hr hp
  exact ⟨fun x hx hc => hfirst hc x hx, fun src k hk hc hreset => hmarks hc hreset src k hk, hw⟩

/-- Settles O8: what the requests write has passed their checks or been clamped, and the update clamps every gain. -/
theorem settingsLawKept : Obligations.SettingsLawKept :=
  keeps_of_exec (fun _ _ ⟨hh, hs⟩ => ⟨hh, hs.congr ⟨rfl, rfl, rfl⟩ rfl rfl⟩)
    (fun _ _ ⟨hh, hs⟩ => ⟨hh, hs.congr ⟨rfl, rfl, rfl⟩ rfl rfl⟩)
    fun _ _ _ ⟨hh, hs⟩ he => ⟨huLawful_of_exec he hh, settingsLawful_of_exec he hs⟩

end Sys2Proof.Proofs
end

section
set_option deprecated.oldSectionVars true -- proofs in sequence: their tasks would not fit the thread limit
/-! The capacities of the buffers (R1, R24, R67, R171, R173), the canonical form of the frame memory, and what a command at one
port leaves alone (R55, Chapter 3). -/
namespace Sys2Proof.Machine

/-! ### The write FIFOs, the line FIFO and the line being composed -/

theorem lineEntries_append (l m : List FifoEntry) : lineEntries (l ++ m) = lineEntries l + lineEntries m :=
  List.countP_append ..

/-- What is taken from the head of a FIFO leaves no more lines in it. -/
theorem lineEntries_tail_le (e : FifoEntry) (l : List FifoEntry) : lineEntries l ≤ lineEntries (e :: l) :=
  (List.sublist_cons_self e l).countP_le

theorem lineEntries_afterChunk_le (l : List FifoEntry) : lineEntries (afterChunk l) ≤ lineEntries l := by
  cases l with
  | nil => exact le_rfl
  | cons e rest =>
    cases e with
    | line k data n =>
      simp only [afterChunk]
      split
      · exact le_rfl
      · exact lineEntries_tail_le ..
    | openReq | abandonReq | publishReq | dropReadyReq => exact le_rfl

section
variable {r : Receiver}

theorem Receiver.fits_takeInfo (h : lineEntries r.fifo ≤ 2) (f : OpenFrame) (p : List Byte) (t : Stamp) :
    lineEntries (r.takeInfo f p t).fifo ≤ 2 := by
  rcases r.takeInfo_cases f p t with ⟨k, line, he⟩ | he <;> rw [he] <;> exact h

theorem Receiver.fits_takeLine (h : lineEntries r.fifo ≤ 2) (f : OpenFrame) (p : List Byte) (t : Stamp) :
    lineEntries (r.takeLine f p t).fifo ≤ 2 := by
  rcases r.takeLine_cases f p t with ⟨k, line, he⟩ | ⟨hroom, -, he⟩ <;> rw [he]
  · exact h
  · exact (lineEntries_append ..).trans_le (Nat.succ_le_of_lt hroom)

/-- A receiver that appends requests and no line fits as before. -/
theorem fits_append {l m : List FifoEntry} (h : lineEntries l ≤ 2) (hm : lineEntries m = 0) : lineEntries (l ++ m) ≤ 2 := by
  rw [lineEntries_append, hm]
  exact h

theorem Receiver.fits_closeBad (h : lineEntries r.fifo ≤ 2) (x : Failure) (v : Verdict) :
    lineEntries (r.closeBad x v).fifo ≤ 2 := by
  refine fits_append h ?_
  split <;> rfl

theorem Receiver.fits_closeGood (h : lineEntries r.fifo ≤ 2) (i : Info) (v : Verdict) (t : Stamp) :
    lineEntries (r.closeGood i v t).fifo ≤ 2 := by
  refine fits_append h ?_
  split <;> rfl

theorem Receiver.fits_silence (h : lineEntries r.fifo ≤ 2) : lineEntries r.silence.fifo ≤ 2 := by
  refine fits_append (fits_append h ?_) ?_
  · split <;> rfl
  · split <;> rfl

theorem Receiver.fits_beginFrame (h : lineEntries r.fifo ≤ 2) (t : Stamp) : lineEntries (r.beginFrame t).fifo ≤ 2 :=
  fits_append h rfl

end

/-- The capacities of the write FIFOs, of the line FIFO and of a line. -/
def State.BuffersFit (s : State) : Prop :=
  (∀ c, lineEntries (s.cr.get c).fifo ≤ 2) ∧ s.op.fifo.length ≤ 4 ∧ s.ce.pixels.length ≤ 720

section
variable {s s' : State}

theorem State.BuffersFit.receiver (h : s.BuffersFit) (cam : Camera) {r : Receiver} (hcr : s'.cr = s.cr.set cam r)
    (hr : lineEntries (s.cr.get cam).fifo ≤ 2 → lineEntries r.fifo ≤ 2) (hop : s'.op = s.op) (hce : s'.ce = s.ce) :
    s'.BuffersFit := by
  obtain ⟨hf, hl, hp⟩ := h
  refine ⟨?_, hop ▸ hl, hce ▸ hp⟩
  rw [hcr]
  exact Quad.forall_set (p := fun r : Receiver => lineEntries r.fifo ≤ 2) hf (hr (hf cam))

theorem State.BuffersFit.frame (h : s.BuffersFit) (hcr : s'.cr = s.cr) (hop : s'.op.fifo.length ≤ 4)
    (hce : s.ce.pixels.length ≤ 720 → s'.ce.pixels.length ≤ 720) : s'.BuffersFit :=
  ⟨hcr ▸ h.1, hop, hce h.2.2⟩

theorem State.BuffersFit.touched (h : s.BuffersFit) (cam : Camera) (t : Stamp) :
    ((s.arrive t).setReceiver cam ((s.cr.get cam).touch t)).BuffersFit :=
  h.receiver cam rfl (by rw [Receiver.touch_fifo]; exact id) rfl rfl

end

theorem buffersFit_of_exec {c : Instr} {s s' : State} (h : exec c s = .next s') : s.BuffersFit → s'.BuffersFit := by
  apply exec_rules (h := h) (W := fun _ s w => s.BuffersFit → w.BuffersFit)
    (Q := fun _ s s' => s.BuffersFit → s'.BuffersFit)
  case answered => exact fun _ _ hw _ h => hw h
  case stop => exact fun _ _ h => h.frame rfl (Nat.zero_le _) id
  case restart =>
    intro t g p s _ h
    refine ⟨fun c => ?_, Nat.zero_le _, Nat.zero_le _⟩
    simp [State.restart, Receiver.restart, lineEntries]
  case powerOn =>
    intro s a b _
    refine ⟨fun c => ?_, Nat.zero_le _, Nat.zero_le _⟩
    simp [State.reset, Receiver.reset, lineEntries]
  case descriptor => exact fun cam _ _ _ _ h => h.receiver cam rfl id rfl rfl
  case enable => exact fun cam d _ _ _ _ h => h.receiver cam rfl id rfl rfl
  case disable =>
    exact fun cam _ _ h => h.receiver cam (r := Receiver.disable _) (by simp; rfl) (fun _ => Nat.zero_le _) (by simp) (by simp)
  case reset =>
    exact fun cam _ _ h => h.receiver cam (r := Receiver.restart _) (by simp; rfl) (fun _ => Nat.zero_le _) (by simp) (by simp)
  case acquires =>
    exact fun {t cam p s} _ h => h.receiver cam rfl
      (fun hf => Receiver.fits_beginFrame (r := ((s.cr.get cam).touch t).acquire t) (by simpa [Receiver.acquire] using hf) t) rfl rfl
  case opens =>
    exact fun {t cam p s} _ _ h => h.receiver cam rfl
      (fun hf => Receiver.fits_beginFrame (r := (s.cr.get cam).touch t) (by simpa using hf) t) rfl rfl
  case reopens =>
    rintro t cam p s f x s1 - - - rfl h
    have hclosed : (((s.arrive t).setReceiver cam ((s.cr.get cam).touch t)).closeBad cam f x t).BuffersFit :=
      (h.touched cam t).receiver cam (State.closeBad_cr ..) (fun hf => Receiver.fits_closeBad hf ..) (by simp) (by simp)
    exact hclosed.receiver cam rfl (fun hf => Receiver.fits_beginFrame hf t) rfl rfl
  case touched => exact fun cam _ _ h => h.touched cam _
  case info =>
    exact fun {t cam p s} f _ _ _ h => h.receiver cam rfl
      (fun hf => Receiver.fits_takeInfo (r := (s.cr.get cam).touch t) (by simpa using hf) f p t) rfl rfl
  case line =>
    exact fun {t cam p s} f _ _ _ h => h.receiver cam rfl
      (fun hf => Receiver.fits_takeLine (r := (s.cr.get cam).touch t) (by simpa using hf) f p t) rfl rfl
  case foreign =>
    exact fun {t cam y p s} f _ _ _ h => h.receiver cam rfl (fun hf => by simpa [Receiver.fail] using hf) rfl rfl
  case closesBad =>
    exact fun f x _ _ _ h => (h.touched _ _).receiver _ (State.closeBad_cr ..) (fun hf => Receiver.fits_closeBad hf ..)
      (by simp) (by simp)
  case closesGood =>
    exact fun f i _ _ _ h => (h.touched _ _).receiver _ (State.closeGood_cr ..) (fun hf => Receiver.fits_closeGood hf ..)
      (by simp) (by simp)
  case silenced => exact fun r _ h => h.receiver _ (by simp; rfl) Receiver.fits_silence (by simp) (by simp)
  case silent => exact fun _ h => h.receiver _ rfl Receiver.fits_silence rfl rfl
  case openRequest =>
    exact fun rest hf h => h.receiver _ rfl (fun hl => (lineEntries_tail_le _ rest).trans (hf ▸ hl)) rfl rfl
  case abandonRequest =>
    exact fun rest hf h => h.receiver _ rfl (fun hl => (lineEntries_tail_le _ rest).trans (hf ▸ hl)) rfl rfl
  case publishRequest =>
    exact fun _ _ rest hf h => h.receiver _ rfl (fun hl => (lineEntries_tail_le _ rest).trans (hf ▸ hl)) rfl rfl
  case dropReadyRequest =>
    exact fun rest hf h => h.receiver _ rfl (fun hl => (lineEntries_tail_le _ rest).trans (hf ▸ hl)) rfl rfl
  case written =>
    exact fun c _ _ _ _ _ h => h.receiver c rfl (lineEntries_afterChunk_le _).trans rfl rfl
  case read =>
    exact fun {t ups s} c slot n no k x u v w h' _ h => h.frame (by simp) (by simpa using h.2.1)
      ((s.arrive t).completeTaps_continues t c slot n ups no k x u v w h').2.2
  case lineComplete =>
    intro t s hce _ hroom h
    refine h.frame rfl ?_ (CE.afterLine_kept _ _ hce).pixels
    change (s.op.fifo ++ [(s.ce.line, packLine s.ce.pixels)]).length ≤ 4
    rw [List.length_append]
    exact hroom
  case frameStart =>
    intro t s _ _ _ h
    obtain ⟨set, -, hce⟩ := (s.arrive t).startFrame_ce t
    refine h.frame (by simp) (by rw [State.startFrame_op]; exact Nat.zero_le _) fun _ => ?_
    rw [hce]
    exact (CE.beginLine_frame _ _ _).2.2.2.2.2
  case active =>
    intro t s k _ h
    refine h.frame (by simp) ?_ (State.emitLine_continues ((s.arrive t).setOp _) k t).2.2
    have hfit := h.2.1
    rcases State.emitLine_op ((s.arrive t).setOp { s.op with counter := s.op.counter + 1, emitting := none }) k t with
      ⟨j, l, rest, hf, he⟩ | ⟨l, he⟩ <;> rw [he]
    · have hlen := congrArg List.length hf
      simp only [State.setOp_op, List.length_cons] at hlen ⊢
      omega
    · exact hfit
  case frameEnd =>
    intro t s set _ _ h
    refine h.frame (by simp) ?_ fun _ => by rw [State.endFrame_ce]; exact Nat.zero_le _
    by_cases hs : s.pu.run = .stopping
    · rw [(State.endFrame_of_stopping (s := s.arrive t) hs set t).2.1]; exact Nat.zero_le _
    · rw [(State.endFrame_of_not_stopping (s := s.arrive t) hs set t).2.1]; exact h.2.1
  all_goals
    intros
    rename_i h
    exact h

/-! ### Inbox and outbox -/

/-- The capacities of inbox and outbox; a CLOSE_VIEW that occupies the executor has its place in the outbox. -/
def LC.Fits (lc : LC) : Prop :=
  lc.inbox.length ≤ 4 ∧ (lc.outbox.filter Reply.executor).length ≤ 2 ∧
  (lc.closing.isSome = true → (lc.outbox.filter Reply.executor).length < 2) ∧
  (lc.outbox.filter fun r => !r.executor).length ≤ 8

section
variable {lc : LC}

theorem LC.Fits.placeFramer (h : lc.Fits) (kind tag : Byte) (st : Status) : (lc.placeFramer kind tag st).Fits := by
  rcases lc.placeFramer_cases kind tag st with ⟨hroom, he⟩ | ⟨-, he⟩ <;> rw [he]
  · obtain ⟨hi, he, hc, hf⟩ := h
    unfold LC.framerReplies at hroom
    refine ⟨hi, ?_, fun hcl => ?_, ?_⟩
    · simpa using he
    · simpa using hc hcl
    · simpa using hroom
  · exact h

theorem LC.Fits.complete (h : lc.Fits) (len : Nat) (kind tag : Byte) (body crc : List Byte) :
    (lc.complete len kind tag body crc).Fits := by
  rcases lc.complete_cases len kind tag body crc with ⟨-, hroom, he⟩ | ⟨-, -, he⟩ | ⟨-, he⟩ <;> rw [he]
  · refine ⟨?_, h.2⟩
    rw [List.length_append]
    exact hroom
  · exact h.placeFramer ..
  · exact h.placeFramer ..

theorem LC.Fits.takeByte (h : lc.Fits) (b : Byte) (t : Stamp) : (lc.takeByte b t).Fits := by
  rcases lc.takeByte_cases b t with ⟨f, x, he⟩ | ⟨len, kind, tag, body, crc, he⟩ <;> rw [he]
  · exact h
  · exact LC.Fits.complete (lc := { lc with framer := .hunt, lastByte := t }) h ..

theorem LC.Fits.expireGap (h : lc.Fits) : lc.expireGap.Fits := by
  rcases lc.expireGap_cases with ⟨f, he⟩ | ⟨kind, tag, he⟩ <;> rw [he]
  · exact h
  · exact LC.Fits.placeFramer (lc := { lc with framer := .hunt }) h ..

/-- A reply of the executor has its place, and the executor is idle after it. -/
theorem LC.Fits.placeExecutor (h : lc.Fits) (hroom : (lc.outbox.filter Reply.executor).length < 2)
    (hidle : lc.closing = none) (kind tag : Byte) (st : Status) (data : List Byte) :
    (lc.placeExecutor kind tag st data).Fits := by
  obtain ⟨hi, he, hc, hf⟩ := h
  refine ⟨hi, ?_, fun hcl => ?_, ?_⟩
  · simpa [LC.placeExecutor] using hroom
  · rw [LC.placeExecutor, hidle] at hcl
    cases hcl
  · simpa [LC.placeExecutor] using hf

/-- The executor takes the frame at the head of the inbox. -/
theorem LC.Fits.taken (h : lc.Fits) {f : Frame} {rest : List Frame} (hi : lc.inbox = f :: rest) :
    ({ lc with inbox := rest } : LC).Fits := by
  refine ⟨?_, h.2⟩
  have := h.1
  rw [hi, List.length_cons] at this
  exact Nat.le_of_succ_le this

theorem LC.Fits.sent (h : lc.Fits) : ({ lc with outbox := lc.outbox.tail } : LC).Fits := by
  obtain ⟨hi, he, hc, hf⟩ := h
  have hle (p : Reply → Bool) : (lc.outbox.tail.filter p).length ≤ (lc.outbox.filter p).length :=
    ((List.tail_sublist _).filter p).length_le
  exact ⟨hi, (hle _).trans he, fun hcl => (hle _).trans_lt (hc hcl), (hle _).trans hf⟩

/-- The scan ends and its CLOSE_VIEW is answered. -/
theorem LC.Fits.scanned (h : lc.Fits) {k : Closing} (hk : lc.closing = some k) (st : Status) (data : List Byte) :
    (({ lc with closing := none } : LC).placeExecutor 0x22#8 k.tag st data).Fits := by
  have hroom := h.2.2.1 (by rw [hk]; rfl)
  exact LC.Fits.placeExecutor (lc := { lc with closing := none }) ⟨h.1, h.2.1, nofun, h.2.2.2⟩ hroom rfl ..

end

theorem lcFits_of_exec {c : Instr} {s s' : State} (h : exec c s = .next s') : s.lc.Fits → s'.lc.Fits := by
  apply exec_rules (h := h) (W := fun _ s w => w.lc = s.lc) (Q := fun _ s s' => s.lc.Fits → s'.lc.Fits)
  case answered =>
    intro c s w q rest st data _ ha hw _ h
    rw [State.setLc_lc, hw]
    exact (h.taken ha.head).placeExecutor ha.room ha.idle ..
  case restart =>
    intro t g p s _
    unfold State.restart State.cutTransfer
    dsimp only
    split <;> simp
  case powerOn => exact fun _ _ _ => ⟨Nat.zero_le _, Nat.zero_le _, nofun, Nat.zero_le _⟩
  case byte => exact fun h => h.takeByte ..
  case gap => exact fun h => h.expireGap
  case sent => exact fun h => h.sent
  case unknown => exact fun ha h => (h.taken ha.head).placeExecutor ha.room ha.idle ..
  case closeView =>
    intro t g p s rest v ha _ _ h
    obtain ⟨hi, he, -, hf⟩ := h.taken ha.head
    exact ⟨hi, he, fun _ => ha.room, hf⟩
  case scanned => exact fun k data hk _ h => h.scanned hk ..
  case unscanned => exact fun k data hk h => h.scanned hk ..
  case reopens =>
    rintro t cam p s f x s1 - - - rfl h
    simpa using h
  case nothing | start | stopping | stop | initialise | timing | descriptor | enable | disable | reset | clear | load |
      select | reselect | withdraw | zone | body | fill | harmonise | gain | clearFaults | faultPolicy | fetch |
      noticePolicy =>
    intros
    simp
  all_goals
    intros
    rename_i h
    simpa using h

/-! ### The frame memory -/

theorem FMC.store_canonical {m : FMC} (h : memWf m.mem = true ∧ keysRising m.wordErrors = true) (c : Camera) (row off : Nat)
    (bytes : List Byte) :
    memWf (m.store c row off bytes).mem = true ∧ keysRising (m.store c row off bytes).wordErrors = true := by
  unfold FMC.store
  split
  · exact ⟨memWf_memWriteBytes _ _ h.1, keysRising_clearErrors _ h.2⟩
  · exact h

section
variable {s : State}

theorem State.memoryCanonical.cutWriter (h : s.memoryCanonical) (c : Camera) : (s.cutWriter c).memoryCanonical := by
  unfold State.cutWriter
  split
  · split
    · exact FMC.store_canonical h ..
    · exact h
  · exact h

theorem State.memoryCanonical.cutTransfer (h : s.memoryCanonical) : s.cutTransfer.memoryCanonical := by
  unfold State.cutTransfer
  split
  · exact h.cutWriter _
  · exact h
  · exact h

/-- A tap read leaves the bytes, and adds the errors it meets to those in the words it reads (R105). -/
theorem State.completeTaps_memory (s : State) (t : Stamp) (c : Camera) (slot : Fin 3) (n : Half)
    (ups : List (Nat × WordError)) (no : Count) (k x : Nat) (u v : Int) (w h : Nat) :
    (s.completeTaps t ups c slot n no k x u v w h).fmc.mem = s.fmc.mem ∧
    (s.completeTaps t ups c slot n no k x u v w h).fmc.wordErrors =
      addErrors s.fmc.wordErrors (tapWords c slot u v w h) ups := by
  rw [State.completeTaps_eq]
  split
  · rw [State.poison, State.handFault_fmc, State.setCe_fmc, State.setRing_fmc, State.afterPoisonLine_fmc, State.looked_fmc]
    exact ⟨rfl, rfl⟩
  · rw [State.setCe_fmc, State.looked_fmc]
    exact ⟨rfl, rfl⟩

end

theorem memoryCanonical_of_exec {c : Instr} {s s' : State} (h : exec c s = .next s') :
    s.memoryCanonical → s'.memoryCanonical := by
  apply exec_rules (h := h) (W := fun _ s w => s.memoryCanonical → w.memoryCanonical)
    (Q := fun _ s s' => s.memoryCanonical → s'.memoryCanonical)
  case answered => exact fun _ _ hw _ h => hw h
  case stop => exact fun _ _ h => h
  case restart => exact fun _ h => h.cutTransfer
  case disable => exact fun cam _ _ h => h.cutWriter cam
  case reset => exact fun cam _ _ h => h.cutWriter cam
  case powerOn => exact fun _ _ _ => ⟨rfl, rfl⟩
  case filled => exact fun _ _ _ => ⟨rfl, rfl⟩
  case written => exact fun c k off bytes _ _ h => FMC.store_canonical h ..
  case read =>
    intro t ups s c slot n no k x u v w h' _ h
    obtain ⟨hmem, herrors⟩ := (s.arrive t).completeTaps_memory t c slot n ups no k x u v w h'
    exact ⟨by rw [hmem]; exact h.1, by rw [herrors]; exact keysRising_addErrors _ _ h.2⟩
  case frameStart =>
    intro t s _ _ _ h
    obtain ⟨rings, he⟩ := (s.arrive t).startFrame_fmc t
    unfold State.memoryCanonical
    rw [he]
    exact h
  case frameEnd =>
    intro t s set _ _ h
    unfold State.memoryCanonical
    by_cases hs : s.pu.run = .stopping
    · rw [(State.endFrame_of_stopping (s := s.arrive t) hs set t).2.2]; exact h
    · rw [(State.endFrame_of_not_stopping (s := s.arrive t) hs set t).2.2]; exact h
  case reopens =>
    rintro t cam p s f x s1 - - - rfl h
    simpa [State.memoryCanonical] using h
  all_goals
    intros
    rename_i h
    simpa [State.memoryCanonical] using h

end Sys2Proof.Machine

namespace Sys2Proof.Proofs
open Sys2Proof Sys2Proof.Machine

/-- Settles O10: each buffer is checked for room where it grows, and every write to the memory keeps its form. -/
theorem capacityKept : Obligations.CapacityKept := by
  constructor
  · refine keeps_of_exec (fun _ _ h => ⟨h.1, h.2, h.3, h.4, h.5, h.6, h.7⟩) (fun _ _ h => ⟨h.1, h.2, h.3, h.4, h.5, h.6, h.7⟩) ?_
    intro c s s' hs h
    obtain ⟨hw, hl, hp⟩ := buffersFit_of_exec h ⟨hs.writeFifos, hs.lineFifo, hs.pixels⟩
    obtain ⟨hi, he, hc, hf⟩ := lcFits_of_exec h ⟨hs.inbox, hs.executor, hs.closing, hs.framer⟩
    exact ⟨hw, hl, hp, hi, he, hc, hf⟩
  · exact keeps_of_exec (fun _ _ h => h) (fun _ _ h => h) fun _ _ _ h he => memoryCanonical_of_exec he h

end Sys2Proof.Proofs
end

section
set_option deprecated.oldSectionVars true -- proofs in sequence: their tasks would not fit the thread limit
/-! The receivers' independence (R55, Chapter 3), that every command answers (log entry 2), the executor's first checks and its
refusals (R172, R174), the step, and the laws at power-on. -/
namespace Sys2Proof.Machine

/-! ### Receivers that a command does not name -/

/-- The port that a request on a port names is the byte at offset 0 of its payload. -/
theorem port_byte_eq_field (p : List Byte) :
    (match p with
      | b :: _ => b.toNat
      | [] => 0) = field p 0 1 := by
  rw [field_one_eq_getD]
  cases p <;> rfl

/-- Only the receiver of one port differs. -/
def State.OnlyPort (n : Nat) (s s' : State) : Prop := ∀ d : Camera, d.val ≠ n → s'.cr.get d = s.cr.get d

theorem State.onlyPort_of_eq {s s' : State} (h : s'.cr = s.cr) (n : Nat) : s.OnlyPort n s' := fun d _ => by rw [h]

theorem State.onlyPort_of_set {s s' : State} {cam : Camera} {r : Receiver} (h : s'.cr = s.cr.set cam r) {n : Nat}
    (hn : n = cam.val) : s.OnlyPort n s' := fun d hd => by
  rw [h, Quad.get_set_other _ _ fun he => hd (by rw [he, hn])]

theorem State.OnlyPort.trans {s s' s'' : State} {n : Nat} (h : s.OnlyPort n s') (h' : s'.OnlyPort n s'') :
    s.OnlyPort n s'' := fun d hd => (h' d hd).trans (h d hd)

theorem onlyPort_of_exec {c : Instr} {s s' : State} (h : exec c s = .next s') :
    ∀ n, c.port = some n → s.OnlyPort n s' := by
  apply exec_rules (h := h) (W := fun c s w => ∀ n, c.port = some n → s.OnlyPort n w)
    (Q := fun c s s' => ∀ n, c.port = some n → s.OnlyPort n s')
  case answered => exact fun _ _ hw _ n hn => hw n hn
  case nothing => exact fun c s n _ => State.onlyPort_of_eq rfl n
  case elapsed => exact fun _ n _ => State.onlyPort_of_eq rfl n
  case touched => exact fun cam hc _ n hn => State.onlyPort_of_set rfl (Option.some.inj (hn.symm.trans hc))
  case descriptor =>
    intro t g p s cam _ hcam _ _ n hn
    exact State.onlyPort_of_set rfl ((Option.some.inj hn).symm.trans ((port_byte_eq_field p).trans hcam))
  case enable =>
    intro t g p s cam d _ hcam _ _ n hn
    exact State.onlyPort_of_set rfl ((Option.some.inj hn).symm.trans ((port_byte_eq_field p).trans hcam))
  case disable =>
    intro t g p s cam _ hcam n hn
    exact State.onlyPort_of_set (by simp; rfl) ((Option.some.inj hn).symm.trans ((port_byte_eq_field p).trans hcam))
  case reset =>
    intro t g p s cam _ hcam n hn
    exact State.onlyPort_of_set (by simp; rfl) ((Option.some.inj hn).symm.trans ((port_byte_eq_field p).trans hcam))
  case acquires => exact fun _ n hn => State.onlyPort_of_set rfl (Option.some.inj hn).symm
  case opens => exact fun _ _ n hn => State.onlyPort_of_set rfl (Option.some.inj hn).symm
  case reopens =>
    rintro t cam p s f x s1 - - - rfl n hn
    have htouch : s.OnlyPort n ((s.arrive t).setReceiver cam ((s.cr.get cam).touch t)) :=
      State.onlyPort_of_set rfl (Option.some.inj hn).symm
    exact (htouch.trans (State.onlyPort_of_set (State.closeBad_cr _ _ f x t) (Option.some.inj hn).symm)).trans
      (State.onlyPort_of_set rfl (Option.some.inj hn).symm)
  case info => exact fun f _ _ _ n hn => State.onlyPort_of_set rfl (Option.some.inj hn).symm
  case line => exact fun f _ _ _ n hn => State.onlyPort_of_set rfl (Option.some.inj hn).symm
  case foreign => exact fun f _ _ _ n hn => State.onlyPort_of_set rfl (Option.some.inj hn).symm
  case closesBad =>
    intro t cam p s f x _ _ _ n hn
    have htouch : s.OnlyPort n ((s.arrive t).setReceiver cam ((s.cr.get cam).touch t)) :=
      State.onlyPort_of_set rfl (Option.some.inj hn).symm
    exact htouch.trans (State.onlyPort_of_set (State.closeBad_cr ..) (Option.some.inj hn).symm)
  case closesGood =>
    intro t cam p s f i _ _ _ n hn
    have htouch : s.OnlyPort n ((s.arrive t).setReceiver cam ((s.cr.get cam).touch t)) :=
      State.onlyPort_of_set rfl (Option.some.inj hn).symm
    exact htouch.trans (State.onlyPort_of_set (State.closeGood_cr ..) (Option.some.inj hn).symm)
  case silenced => exact fun r _ n hn => State.onlyPort_of_set (by simp; rfl) (Option.some.inj hn).symm
  case silent => exact fun _ n hn => State.onlyPort_of_set rfl (Option.some.inj hn).symm
  case openRequest => exact fun rest _ n hn => State.onlyPort_of_set rfl (Option.some.inj hn).symm
  case abandonRequest => exact fun rest _ n hn => State.onlyPort_of_set rfl (Option.some.inj hn).symm
  case publishRequest => exact fun _ _ rest _ n hn => State.onlyPort_of_set rfl (Option.some.inj hn).symm
  case dropReadyRequest => exact fun rest _ n hn => State.onlyPort_of_set rfl (Option.some.inj hn).symm
  all_goals
    intros
    rename_i hn
    cases hn

/-! ### The descriptor of an enabled port -/

/-- Every port that is not DISABLED keeps its descriptor. -/
def State.DescriptorsStay (s s' : State) : Prop :=
  ∀ d : Camera, (s.cr.get d).qual ≠ .disabled → (s'.cr.get d).descriptor = (s.cr.get d).descriptor

section
variable {s s' : State}

theorem State.descriptorsStay_of_eq (h : s'.cr = s.cr) : s.DescriptorsStay s' := fun d _ => by rw [h]

/-- The receiver that is replaced has the descriptor of the one that was there. -/
theorem State.descriptorsStay_of_set {cam : Camera} {r : Receiver} (h : s'.cr = s.cr.set cam r)
    (hr : r.descriptor = (s.cr.get cam).descriptor) : s.DescriptorsStay s' := fun d _ => by
  rw [h, Quad.get_set]
  split
  case isTrue hd => rw [hr, hd]
  case isFalse => rfl

end

theorem Receiver.takeInfo_descriptor (r : Receiver) (f : OpenFrame) (p : List Byte) (t : Stamp) :
    (r.takeInfo f p t).descriptor = r.descriptor := by
  rcases r.takeInfo_cases f p t with ⟨k, line, he⟩ | he
  · rw [he]; rfl
  · rw [he]

theorem Receiver.takeLine_descriptor (r : Receiver) (f : OpenFrame) (p : List Byte) (t : Stamp) :
    (r.takeLine f p t).descriptor = r.descriptor := by
  rcases r.takeLine_cases f p t with ⟨k, line, he⟩ | ⟨-, -, he⟩
  · rw [he]; rfl
  · rw [he]

theorem descriptorsStay_of_exec {c : Instr} {s s' : State} (h : exec c s = .next s') :
    (∀ a b, c ≠ .powerOn a b) → s.DescriptorsStay s' := by
  apply exec_rules (h := h) (W := fun _ s w => s.DescriptorsStay w)
    (Q := fun c s s' => (∀ a b, c ≠ .powerOn a b) → s.DescriptorsStay s')
  case answered => exact fun _ _ hw _ _ => hw
  case powerOn => exact fun a b hc => absurd rfl (hc a b)
  case restart => exact fun _ d _ => by simp [State.restart, Receiver.restart]
  case descriptor =>
    intro t g p s cam _ _ hq _ d hd
    exact congrArg Receiver.descriptor (Quad.get_set_other _ _ fun he => hd (he ▸ hq))
  case enable => exact fun cam d _ _ _ _ => State.descriptorsStay_of_set rfl rfl
  case disable => exact fun cam _ _ => State.descriptorsStay_of_set (r := Receiver.disable _) (by simp; rfl) rfl
  case reset => exact fun cam _ _ => State.descriptorsStay_of_set (r := Receiver.restart _) (by simp; rfl) rfl
  case acquires => exact fun _ _ => State.descriptorsStay_of_set rfl (Receiver.touch_descriptor ..)
  case opens => exact fun _ _ _ => State.descriptorsStay_of_set rfl (Receiver.touch_descriptor ..)
  case reopens =>
    rintro t cam p s f x s1 - - - rfl - d -
    by_cases hd : d = cam
    · subst hd
      simp [Receiver.beginFrame, Receiver.closeBad]
    · simp [hd]
  case touched => exact fun cam _ _ _ => State.descriptorsStay_of_set rfl (Receiver.touch_descriptor ..)
  case info =>
    exact fun f _ _ _ _ => State.descriptorsStay_of_set rfl
      ((Receiver.takeInfo_descriptor ..).trans (Receiver.touch_descriptor ..))
  case line =>
    exact fun f _ _ _ _ => State.descriptorsStay_of_set rfl
      ((Receiver.takeLine_descriptor ..).trans (Receiver.touch_descriptor ..))
  case foreign => exact fun f _ _ _ _ => State.descriptorsStay_of_set rfl (Receiver.touch_descriptor ..)
  case closesBad =>
    intro t cam p s f x _ _ _ _ d _
    by_cases hd : d = cam
    · subst hd
      simp [Receiver.closeBad]
    · simp [hd]
  case closesGood =>
    intro t cam p s f i _ _ _ _ d _
    by_cases hd : d = cam
    · subst hd
      simp [Receiver.closeGood]
    · simp [hd]
  case silenced => exact fun r _ _ => State.descriptorsStay_of_set (r := Receiver.silence _) (by simp; rfl) rfl
  case silent => exact fun _ _ => State.descriptorsStay_of_set rfl rfl
  case openRequest => exact fun rest _ _ => State.descriptorsStay_of_set rfl rfl
  case abandonRequest => exact fun rest _ _ => State.descriptorsStay_of_set rfl rfl
  case publishRequest => exact fun _ _ rest _ _ => State.descriptorsStay_of_set rfl rfl
  case dropReadyRequest => exact fun rest _ _ => State.descriptorsStay_of_set rfl rfl
  case written => exact fun c _ _ _ _ _ _ => State.descriptorsStay_of_set rfl rfl
  all_goals
    intros
    exact State.descriptorsStay_of_eq (by simp)

/-! ### Every command answers -/

theorem serve_total (k : Byte) (t : Stamp) (g : Byte) (p : List Byte) (body : State → Served) (s : State) :
    ∃ s', serve k t g p body s = .next s' := by
  unfold serve
  split
  · exact ⟨_, rfl⟩
  · split <;> exact ⟨_, rfl⟩

theorem applyRequest_total (cam : Camera) (t : Stamp) (op : FifoEntry → Option (Ring → Ring)) (s : State) :
    ∃ s', applyRequest cam t op s = .next s' := by
  unfold applyRequest
  split
  · exact ⟨_, rfl⟩
  · split <;> exact ⟨_, rfl⟩

theorem receive_total (t : Stamp) (cam : Camera) (f : Receiver → OpenFrame → Receiver) (s : State) :
    ∃ s', receive t cam f s = .next s' := ⟨_, rfl⟩

/-- No command is refused and none faults (log entry 2). -/
theorem exec_total (c : Instr) (s : State) : ∃ s', exec c s = .next s' := by
  cases c with
  | powerOn | replySent => exact ⟨_, rfl⟩
  | trainingComplete t a =>
    change ∃ s', execTrainingComplete t a s = _
    unfold execTrainingComplete
    split
    · split
      · split <;> exact ⟨_, rfl⟩
      · exact ⟨_, rfl⟩
    · exact ⟨_, rfl⟩
  | fillComplete t =>
    change ∃ s', execFillComplete t s = _
    unfold execFillComplete
    split
    · split <;> exact ⟨_, rfl⟩
    · exact ⟨_, rfl⟩
  | byteArrival t b stop =>
    change ∃ s', execByteArrival t b stop s = _
    unfold execByteArrival
    split <;> exact ⟨_, rfl⟩
  | gapExpiry t =>
    change ∃ s', execGapExpiry t s = _
    unfold execGapExpiry
    split <;> exact ⟨_, rfl⟩
  | unknownKind t k g p =>
    change ∃ s', execUnknownKind t k g p s = _
    unfold execUnknownKind
    split
    · exact ⟨_, rfl⟩
    · exact serve_total ..
  | selectView t g p =>
    change ∃ s', execSelectView t g p s = _
    unfold execSelectView
    split
    · exact ⟨_, rfl⟩
    · exact serve_total ..
  | selectViewNone t g p =>
    change ∃ s', execSelectViewNone t g p s = _
    unfold execSelectViewNone
    split
    · exact serve_total ..
    · exact ⟨_, rfl⟩
  | identify | getStatus | start | stop | restart | setTiming | setCamera | enableCamera | disableCamera | resetCamera |
      getCamera | clearView | loadNodes | closeView | readNodes | setZone | setBody | setFill | setHarmonise | setGain |
      getFaults | clearFaults | setFaultPolicy | fetchNotices | setNoticePolicy | getHistory => exact serve_total ..
  | scanComplete t =>
    change ∃ s', execScanComplete t s = _
    unfold execScanComplete
    split
    · exact ⟨_, rfl⟩
    · split
      · dsimp only
        split <;> exact ⟨_, rfl⟩
      · exact ⟨_, rfl⟩
  | frameOpen t cam p =>
    change ∃ s', execFrameOpen t cam p s = _
    unfold execFrameOpen
    dsimp only
    split
    · exact ⟨_, rfl⟩
    · exact ⟨_, rfl⟩
    · split <;> exact ⟨_, rfl⟩
  | info | line => exact ⟨_, rfl⟩
  | foreignPacket t cam y p =>
    change ∃ s', execForeignPacket t cam y p s = _
    unfold execForeignPacket
    split
    · exact receive_total ..
    · exact ⟨_, rfl⟩
  | frameClose t cam p =>
    change ∃ s', execFrameClose t cam p s = _
    unfold execFrameClose
    dsimp only
    split
    · split
      · exact ⟨_, rfl⟩
      · split <;> exact ⟨_, rfl⟩
    · exact ⟨_, rfl⟩
  | silenceExpiry t cam =>
    change ∃ s', execSilenceExpiry t cam s = _
    unfold execSilenceExpiry
    dsimp only
    split
    · split <;> exact ⟨_, rfl⟩
    · exact ⟨_, rfl⟩
  | openRequest | abandonRequest | publishRequest | dropReadyRequest => exact applyRequest_total ..
  | arbiterGrant t ask =>
    change ∃ s', execArbiterGrant t ask s = _
    unfold execArbiterGrant
    split
    · split
      · exact ⟨_, rfl⟩
      · split <;> exact ⟨_, rfl⟩
    · exact ⟨_, rfl⟩
  | writerTransferComplete t =>
    change ∃ s', execWriterTransferComplete t s = _
    unfold execWriterTransferComplete
    split
    · split <;> exact ⟨_, rfl⟩
    · exact ⟨_, rfl⟩
  | compositionTransferComplete t ups =>
    change ∃ s', execCompositionTransferComplete t ups s = _
    unfold execCompositionTransferComplete
    split <;> exact ⟨_, rfl⟩
  | lineComplete t =>
    change ∃ s', execLineComplete t s = _
    unfold execLineComplete
    split <;> exact ⟨_, rfl⟩
  | outputFrameStart t =>
    change ∃ s', execOutputFrameStart t s = _
    unfold execOutputFrameStart
    split <;> exact ⟨_, rfl⟩
  | linePeriodStart t =>
    change ∃ s', execLinePeriodStart t s = _
    unfold execLinePeriodStart
    split
    · dsimp only
      split <;> exact ⟨_, rfl⟩
    · exact ⟨_, rfl⟩
  | frameEnd t =>
    change ∃ s', execFrameEnd t s = _
    unfold execFrameEnd
    split
    · split <;> exact ⟨_, rfl⟩
    · exact ⟨_, rfl⟩

/-- A command that carries a request has the request's stamp. -/
theorem Instr.request_stamp_or (c : Instr) : (c.request.map Request.stamp).or c.stamp = c.stamp := by
  cases c <;> rfl

theorem Instr.stamp_of_request {c : Instr} {q : Request} (h : c.request = some q) : c.stamp = some q.stamp := by
  rw [← Instr.request_stamp_or c, h]
  rfl

theorem LC.takeByte_rates (lc : LC) (b : Byte) (t : Stamp) :
    (lc.takeByte b t).rate1 = lc.rate1 ∧ (lc.takeByte b t).rate0 = lc.rate0 := by
  have hframer (lc : LC) (k g : Byte) (st : Status) :
      (lc.placeFramer k g st).rate1 = lc.rate1 ∧ (lc.placeFramer k g st).rate0 = lc.rate0 := by
    rcases lc.placeFramer_cases k g st with ⟨-, he⟩ | ⟨-, he⟩ <;> rw [he] <;> exact ⟨rfl, rfl⟩
  rcases lc.takeByte_cases b t with ⟨f, x, he⟩ | ⟨len, kind, tag, body, crc, he⟩ <;> rw [he]
  · exact ⟨rfl, rfl⟩
  · rcases LC.complete_cases { lc with framer := .hunt, lastByte := t } len kind tag body crc with
      ⟨-, -, hc⟩ | ⟨-, -, hc⟩ | ⟨-, hc⟩ <;> rw [hc]
    · exact ⟨rfl, rfl⟩
    · exact hframer ..
    · exact hframer ..

theorem LC.expireGap_rates (lc : LC) : lc.expireGap.rate1 = lc.rate1 ∧ lc.expireGap.rate0 = lc.rate0 := by
  rcases lc.expireGap_cases with ⟨f, he⟩ | ⟨kind, tag, he⟩ <;> rw [he]
  · exact ⟨rfl, rfl⟩
  · rcases LC.placeFramer_cases { lc with framer := .hunt } kind tag .badLength with ⟨-, hp⟩ | ⟨-, hp⟩ <;> rw [hp] <;>
      exact ⟨rfl, rfl⟩

/-- The queue stays, and the command's stamp is the timebase, with the straps as sampled. -/
def State.Stamped (c : Instr) (s s' : State) : Prop :=
  s'.pending = s.pending ∧ ∀ t, c.stamp = some t → s'.timebase = t ∧ s'.lc.rate1 = s.lc.rate1 ∧ s'.lc.rate0 = s.lc.rate0

theorem State.stamped_of {c : Instr} {s s' : State} {t : Stamp} (hc : c.stamp = some t) (hp : s'.pending = s.pending)
    (ht : s'.timebase = t) (h1 : s'.lc.rate1 = s.lc.rate1) (h0 : s'.lc.rate0 = s.lc.rate0) : s.Stamped c s' :=
  ⟨hp, fun _ hu => ⟨ht.trans (Option.some.inj (hc.symm.trans hu)), h1, h0⟩⟩

theorem stamped_of_exec {c : Instr} {s s' : State} (h : exec c s = .next s') : s.Stamped c s' := by
  apply exec_rules (h := h)
    (W := fun _ s w => w.pending = s.pending ∧ w.timebase = s.timebase ∧ w.lc.rate1 = s.lc.rate1 ∧ w.lc.rate0 = s.lc.rate0)
    (Q := fun c s s' => s.Stamped c s')
  case answered =>
    intro c s w q rest st data hq _ hw _
    obtain ⟨hp, ht, h1, h0⟩ := hw
    exact State.stamped_of (Instr.stamp_of_request hq) hp ht h1 h0
  case elapsed => exact fun ht => State.stamped_of ht rfl rfl rfl rfl
  case touched => exact fun _ _ ht => State.stamped_of ht rfl rfl rfl rfl
  case powerOn => exact fun a b => ⟨rfl, nofun⟩
  case byte =>
    intro t b s
    obtain ⟨h1, h0⟩ := s.lc.takeByte_rates b t
    exact State.stamped_of rfl rfl rfl h1 h0
  case gap =>
    intro t s
    obtain ⟨h1, h0⟩ := s.lc.expireGap_rates
    exact State.stamped_of rfl rfl rfl h1 h0
  case restart =>
    intro t g p s _
    have hlc : s.restart.lc = s.lc := by
      unfold State.restart State.cutTransfer
      dsimp only
      split <;> simp
    have htime : s.restart.timebase = s.timebase := by
      unfold State.restart State.cutTransfer
      dsimp only
      split <;> simp
    exact ⟨State.cutTransfer_pending s, htime, by rw [hlc], by rw [hlc]⟩
  case unknown => exact fun _ => State.stamped_of rfl rfl rfl rfl rfl
  case closeView => exact fun v _ _ _ => State.stamped_of rfl rfl rfl rfl rfl
  case scanned => exact fun k data _ _ => State.stamped_of rfl rfl rfl rfl rfl
  case unscanned => exact fun k data _ => State.stamped_of rfl rfl rfl rfl rfl
  case reopens =>
    rintro t cam p s f x s1 - - - rfl
    exact State.stamped_of rfl (by simp) (by simp) (by simp) (by simp)
  case nothing | start | stopping | stop | initialise | timing | descriptor | enable | disable | reset | clear | load |
      select | reselect | withdraw | zone | body | fill | harmonise | gain | clearFaults | faultPolicy | fetch |
      noticePolicy =>
    intros
    simp
  all_goals
    intros
    exact State.stamped_of rfl (by simp) (by simp) (by simp) (by simp)

/-! ### The executor's first checks -/

theorem catalogue_contains_iff (kind : Byte) : catalogue.contains kind = true ↔ kind.toNat ∈ catalogueKinds := by
  have hkinds : catalogueKinds = catalogue.map BitVec.toNat := rfl
  rw [hkinds, List.mem_map_of_injective BitVec.toNat_injective, List.contains_iff_mem]

end Sys2Proof.Machine

namespace Sys2Proof
open Machine

/-- The catalogue refuses the request in the run state. -/
def Request.NotReady (q : Request) (s : State) : Prop :=
  (s.pu.run = .startup ∧ q.refusedInStartup = true) ∨ (s.pu.run = .memoryFault ∧ q.refusedInMemoryFault = true)

/-- The request's body begins with steps 2 and 3 of R172. -/
def Request.Checks (q : Request) (body : State → Served) : Prop :=
  ∀ w : State, (q.NotReady w → body w = refuse w .notReady) ∧
    ∀ n, ¬ q.NotReady w → q.length = some n → q.payload.length ≠ n → body w = refuse w .badValue

section
variable {t : Stamp} {kind tag : Byte} {p : List Byte} {body : State → Served}

theorem operational_of_not_notReady {len : Option Nat} {w : State}
    (h : ¬ Request.NotReady ⟨t, kind, tag, p, len, true, true⟩ w) : w.pu.run.operational = true :=
  operational_of_ready ⟨fun hr => h (.inl ⟨hr, rfl⟩), fun hr => h (.inr ⟨hr, rfl⟩)⟩

theorem whenReady_of_notReady {len : Option Nat} {w : State}
    (h : Request.NotReady ⟨t, kind, tag, p, len, true, true⟩ w) (k : Served) : whenReady w k = refuse w .notReady := by
  rcases h with ⟨hr, -⟩ | ⟨hr, -⟩ <;> exact if_neg (by rw [hr]; nofun)

/-- Most requests: refused in STARTUP and in MEMORY_FAULT, with a payload of fixed length. -/
theorem Request.checks_of_guards {n : Nat} (h : ∀ w, ∃ k, body w = whenReady w (whenLength w p n k)) :
    Request.Checks ⟨t, kind, tag, p, some n, true, true⟩ body := by
  intro w
  obtain ⟨k, hk⟩ := h w
  refine ⟨fun hr => hk.trans (whenReady_of_notReady hr _), fun m hr hm hp => ?_⟩
  rw [hk, whenReady_of_operational (operational_of_not_notReady hr)]
  exact if_neg fun hl => hp (hl.trans (Option.some.inj hm))

/-- A request that no run state refuses, with a payload of fixed length. -/
theorem Request.checks_of_whenLength {n : Nat} (h : ∀ w, ∃ k, body w = whenLength w p n k) :
    Request.Checks ⟨t, kind, tag, p, some n, false, false⟩ body := by
  intro w
  obtain ⟨k, hk⟩ := h w
  refine ⟨fun hr => ?_, fun m _ hm hp => hk.trans (if_neg fun hl => hp (hl.trans (Option.some.inj hm)))⟩
  rcases hr with ⟨-, hf⟩ | ⟨-, hf⟩ <;> cases hf

/-- RESTART is refused in STARTUP alone. -/
theorem Request.checks_restart : Request.Checks ⟨t, kind, tag, p, some 0, true, false⟩ (reqRestart t p) := by
  intro w
  unfold reqRestart
  constructor
  · rintro (⟨hr, -⟩ | ⟨-, hf⟩)
    · rw [hr]
    · cases hf
  · intro n hr hn hp
    have hlen : p.length ≠ 0 := fun hl => hp (hl.trans (Option.some.inj hn))
    cases hrun : w.pu.run with
    | startup => exact absurd (.inl ⟨hrun, rfl⟩) hr
    | memoryFault | stopped | running | stopping => exact if_neg hlen

/-- LOAD_NODES has no fixed length. -/
theorem Request.checks_loadNodes : Request.Checks ⟨t, kind, tag, p, none, true, true⟩ (reqLoadNodes p) :=
  fun _ => ⟨fun hr => whenReady_of_notReady hr _, fun _ _ hn => nomatch hn⟩

/-- SELECT_VIEW(NONE) has the length of its own payload. -/
theorem Request.checks_selectViewNone (hp : p.length = 1) :
    Request.Checks ⟨t, kind, tag, p, some 1, true, true⟩ reqSelectViewNone :=
  fun _ => ⟨fun hr => whenReady_of_notReady hr _, fun _ _ hn hl => absurd (hp.trans (Option.some.inj hn)) hl⟩

end

/-- A well-formed request is served by a body that begins with the catalogue's checks. -/
theorem exec_request {c : Instr} {q : Request} (hwf : c.wf = true) (hq : c.request = some q) :
    ∃ body, (∀ s, exec c s = serve q.kind q.stamp q.tag q.payload body s) ∧ q.Checks body := by
  cases c
  case identify | getStatus =>
    cases hq
    exact ⟨_, fun _ => rfl, Request.checks_of_whenLength fun _ => ⟨_, rfl⟩⟩
  case restart =>
    cases hq
    exact ⟨_, fun _ => rfl, Request.checks_restart⟩
  case loadNodes =>
    cases hq
    exact ⟨_, fun _ => rfl, Request.checks_loadNodes⟩
  case selectView t g p =>
    cases hq
    have hp : p ≠ [0xFF#8] := by simpa using (Bool.and_eq_true_iff.mp hwf).2
    exact ⟨reqSelectView p, fun _ => if_neg hp, Request.checks_of_guards fun _ => ⟨_, rfl⟩⟩
  case selectViewNone t g p =>
    cases hq
    have hp : p = [0xFF#8] := by simpa [Instr.wf] using hwf
    subst hp
    exact ⟨reqSelectViewNone, fun _ => rfl, Request.checks_selectViewNone rfl⟩
  case start | stop | setTiming | setCamera | enableCamera | disableCamera | resetCamera | getCamera | clearView |
      closeView | readNodes | setZone | setBody | setFill | setHarmonise | setGain | getFaults | clearFaults |
      setFaultPolicy | fetchNotices | setNoticePolicy | getHistory =>
    cases hq
    exact ⟨_, fun _ => rfl, Request.checks_of_guards fun _ => ⟨_, rfl⟩⟩
  all_goals cases hq

end Sys2Proof

namespace Sys2Proof.Machine

/-! ### Refusals -/

/-- A request that is answered by a refusal has changed nothing. -/
def State.RefusedOnly (c : Instr) (s s' : State) : Prop :=
  ∀ (q : Request) (rest : List Frame) (st : Status) (data : List Byte), c.request = some q →
    s.asks q.kind q.tag q.payload rest → s'.lc.outbox = s.lc.outbox ++ [⟨q.kind, q.tag, st, data, true⟩] →
    st.refusal = true → s' = s.answered q.stamp rest q.kind q.tag st []

/-- A command that adds no reply is no refusal. -/
theorem State.refusedOnly_of_outbox {c : Instr} {s s' : State} (h : s'.lc.outbox = s.lc.outbox) : s.RefusedOnly c s' := by
  intro q rest st data _ _ ho _
  exact absurd (h.symm.trans ho) (by simp)

theorem refusedOnly_of_exec {c : Instr} {s s' : State} (h : exec c s = .next s') : s.RefusedOnly c s' := by
  apply exec_rules (h := h) (W := fun _ s w => w.lc = s.lc) (Q := fun c s s' => s.RefusedOnly c s')
  case elapsed => exact fun _ => State.refusedOnly_of_outbox rfl
  case touched => exact fun _ _ _ => State.refusedOnly_of_outbox rfl
  case closeView => exact fun v _ _ _ => State.refusedOnly_of_outbox rfl
  case answered =>
    intro c s w q rest st data hq ha hlc href q' rest' st' data' hq' ha' hout hst
    obtain rfl := Option.some.inj (hq.symm.trans hq')
    have hrest : rest' = rest := (List.cons.inj (ha'.head.symm.trans ha.head)).2
    have hreply : (⟨q.kind, q.tag, st, data, true⟩ : Reply) = ⟨q.kind, q.tag, st', data', true⟩ := by
      rw [State.setLc_lc, hlc] at hout
      exact List.singleton_inj.mp (List.append_cancel_left hout)
    obtain rfl : st = st' := congrArg Reply.status hreply
    obtain ⟨rfl, rfl⟩ := href hst
    rw [hrest]
    rfl
  case restart =>
    intro t g p s _
    unfold State.restart State.cutTransfer
    dsimp only
    split <;> simp
  case nothing | start | stopping | stop | initialise | timing | descriptor | enable | disable | reset | clear | load |
      select | reselect | withdraw | zone | body | fill | harmonise | gain | clearFaults | faultPolicy | fetch |
      noticePolicy =>
    intros
    simp
  all_goals
    intros
    intro q rest st data hq
    cases hq

/-! ### The laws at power-on -/

theorem State.reset_ringsLawful : State.reset.ringsLawful := fun c => by
  simpa [State.reset, FMC.reset] using Ring.lawful.all_free

theorem State.reset_portsLawful : State.reset.portsLawful := fun c => by simpa [State.reset] using Receiver.reset_lawful

theorem State.reset_fifosAgree : State.reset.fifosAgree := fun c => by
  change Receiver.agrees _ (Ring.fills _)
  simpa [State.reset, FMC.reset, Ring.fills_all_free] using Receiver.agrees_of_empty (r := .reset) rfl rfl

theorem State.reset_viewsLawful : State.reset.viewsLawful :=
  { tables := fun v => by simpa [State.reset, VS.reset] using ViewSlot.reset_lawful
    active := fun v w hv => by simp [State.reset, VS.reset, ViewSlot.reset] at hv
    pending := fun v => by simp [State.reset, VS.reset, ViewSlot.reset]
    closing := fun v => by simp [State.reset, VS.reset, ViewSlot.reset, LC.reset] }

theorem State.reset_runLawful : State.reset.runLawful :=
  { startup := by simp [State.reset, PU.reset, FMC.reset]
    ports := fun _ c => by simp [State.reset, Receiver.reset]
    rings := fun _ => ⟨rfl, rfl⟩
    idle := by simp [State.reset, CE.reset]
    quiet := fun _ _ => rfl
    frame := fun hs => by cases hs
    port := by simp [State.reset, PU.reset, OP.reset]
    blank := fun _ => ⟨rfl, rfl, rfl⟩ }

theorem State.reset_withinCapacity : State.reset.withinCapacity :=
  { writeFifos := fun c => by simp [State.reset, Receiver.reset, lineEntries]
    lineFifo := Nat.zero_le _
    pixels := Nat.zero_le _
    inbox := Nat.zero_le _
    executor := Nat.zero_le _
    closing := nofun
    framer := Nat.zero_le _ }

end Sys2Proof.Machine

namespace Sys2Proof.Proofs
open Sys2Proof Sys2Proof.Machine

/-- Settles O1: the step is a match on the queue. -/
theorem stepRunsFront : Obligations.StepRunsFront := by
  refine ⟨fun s c rest h => ?_, fun s h => ?_⟩
  · unfold step
    rw [h]
    rfl
  · unfold step
    split
    · rfl
    · simp_all

/-- Settles O2: each meaning ends in a next state in every case, and each case that occurs leaves the stamp. -/
theorem everyCommandAnswers : Obligations.EveryCommandAnswers := by
  intro c s
  obtain ⟨s', h⟩ := exec_total c s
  exact ⟨s', h, stamped_of_exec h⟩

/-- Settles O15: case by case over what a command can do, by the receiver that it replaces. -/
theorem receiversIndependent : Obligations.ReceiversIndependent :=
  ⟨fun _ _ _ n d h hn hd => onlyPort_of_exec h n hn d hd, fun _ _ _ d h hc hd => descriptorsStay_of_exec h hc d hd⟩

/-- Settles O16: every request's body begins with the catalogue's checks. -/
theorem requestChecks : Obligations.RequestChecks := by
  refine ⟨fun s t kind tag p rest hk ha => ?_, fun c q s rest hwf hq ha => ?_⟩
  · have hexec : exec (.unknownKind t kind tag p) s = serve kind t tag p (fun s => refuse s .unknownKind) s :=
      if_neg fun h => hk ((catalogue_contains_iff kind).mp h)
    exact hexec.trans (serve_of_refuse ha rfl)
  · obtain ⟨body, hexec, hchecks⟩ := exec_request hwf hq
    obtain ⟨hready, hlength⟩ := hchecks (s.taken q.stamp rest)
    exact ⟨fun h => (hexec s).trans (serve_of_refuse ha (hready h)),
      fun n h hn hp => (hexec s).trans (serve_of_refuse ha (hlength n h hn hp))⟩

/-- Settles O17: case by case over what a command can do; a request that answers a refusal leaves the state as it took
it. -/
theorem refusalChangesNothing : Obligations.RefusalChangesNothing :=
  fun _ q _ _ rest st data hq ha h hout hst => refusedOnly_of_exec h q rest st data hq ha hout hst

/-- Settles O11: each law at the state after power-on. -/
theorem resetIsLawful : Obligations.ResetIsLawful :=
  ⟨State.reset_ringsLawful, State.reset_portsLawful, State.reset_fifosAgree, State.reset_viewsLawful, NQ.reset_lawful,
    HU.reset_lawful, State.reset_settingsLawful, State.reset_runLawful, State.slotsHeld_of_set_none rfl,
    State.reset_withinCapacity, ⟨rfl, rfl⟩⟩

end Sys2Proof.Proofs
end

section
set_option deprecated.oldSectionVars true -- proofs in sequence: their tasks would not fit the thread limit
/-! What the requests at the head of a write FIFO do to a ring, whom the arbiter serves, and the silence of a port
(Chapters 4 and 5). -/
namespace Sys2Proof.Machine

/-! ### Ring requests -/

/-- The state once the request at the head of a camera's FIFO, which leaves `rest`, has acted on its ring. -/
def State.ringActed (s : State) (t : Stamp) (c : Camera) (rest : List FifoEntry) (f : Ring → Ring) : State :=
  { s with
    timebase := t, cr := s.cr.set c { s.cr.get c with fifo := rest }
    fmc := { s.fmc with rings := s.fmc.rings.set c (f (s.fmc.rings.get c)) } }

/-- A ring request at the head of its FIFO leaves the FIFO and acts on the ring. -/
theorem applyRequest_of_head {s : State} {c : Camera} {e : FifoEntry} {rest : List FifoEntry} (t : Stamp)
    {op : FifoEntry → Option (Ring → Ring)} {f : Ring → Ring} (h : (s.cr.get c).fifo = e :: rest) (ho : op e = some f) :
    applyRequest c t op s = .next (s.ringActed t c rest f) := by
  simp only [applyRequest, h, ho]
  rfl

section
variable {s : State} {c : Camera} {rest : List FifoEntry} (t : Stamp)

theorem exec_openRequest (h : (s.cr.get c).fifo = .openReq :: rest) :
    exec (.openRequest t c) s = .next (s.ringActed t c rest fun r => ringOpen r t) :=
  applyRequest_of_head t h (if_pos rfl)

theorem exec_abandonRequest (h : (s.cr.get c).fifo = .abandonReq :: rest) :
    exec (.abandonRequest t c) s = .next (s.ringActed t c rest ringAbandon) :=
  applyRequest_of_head t h (if_pos rfl)

theorem exec_dropReadyRequest (h : (s.cr.get c).fifo = .dropReadyReq :: rest) :
    exec (.dropReadyRequest t c) s = .next (s.ringActed t c rest ringDropReady) :=
  applyRequest_of_head t h (if_pos rfl)

theorem exec_publishRequest {close : Stamp} {n : Half} (h : (s.cr.get c).fifo = .publishReq close n :: rest) :
    exec (.publishRequest t c) s = .next (s.ringActed t c rest fun r => ringPublish r close n) :=
  applyRequest_of_head t h rfl

end

theorem Trio.find_of_first {α : Type} {q : Trio α} {p : α → Bool} {i : Fin 3} (hi : p (q.get i) = true)
    (hlt : ∀ j < i, p (q.get j) = false) : Trio.find q p = some i := by
  cases h : Trio.find q p with
  | none => exact absurd hi (by rw [Trio.find_none.mp h i]; decide)
  | some j =>
    obtain ⟨hj, hbelow⟩ := Trio.find_some h
    have hij : ¬ i < j := fun hlt' => by simp [hbelow i hlt'] at hi
    have hji : ¬ j < i := fun hlt' => by simp [hlt j hlt'] at hj
    rw [le_antisymm (not_lt.mp hij) (not_lt.mp hji)]

theorem SlotRecord.isFree_iff {x : SlotRecord} : x.isFree = true ↔ x = .free := by
  cases x <;> simp [SlotRecord.isFree]

theorem ringOpen_of_filling {r : Ring} {i : Fin 3} (t : Stamp) (hi : (r.get i).isFilling = true)
    (hlt : ∀ j < i, (r.get j).isFilling = false) : ringOpen r t = Trio.set r i (.filling t) := by
  simp only [ringOpen, Trio.find_of_first hi hlt]

theorem ringOpen_of_free {r : Ring} {i : Fin 3} (t : Stamp) (hn : ∀ j, (r.get j).isFilling = false)
    (hi : r.get i = .free) (hlt : ∀ j < i, r.get j ≠ .free) : ringOpen r t = Trio.set r i (.filling t) := by
  have hfree : Trio.find r SlotRecord.isFree = some i :=
    Trio.find_of_first (SlotRecord.isFree_iff.mpr hi) fun j hj =>
      Bool.eq_false_iff.mpr fun h => hlt j hj (SlotRecord.isFree_iff.mp h)
  simp only [ringOpen, Trio.find_none.mpr hn, hfree]

theorem ringPublish_of_none {r : Ring} (close : Stamp) (n : Half) (h : ∀ j, (r.get j).isFilling = false) :
    ringPublish r close n = r := by
  simp only [ringPublish, Trio.find_none.mpr h]

theorem ringPublish_of_filling {r : Ring} {i : Fin 3} {o : Stamp} (close : Stamp) (n : Half) (hr : Ring.lawful r)
    (hi : r.get i = .filling o) :
    ringPublish r close n = Trio.set (freeWhere SlotRecord.isReady r) i (.ready o close n) := by
  have hfind : Trio.find r SlotRecord.isFilling = some i :=
    Trio.find_of_countP_le_one hr.filling (by rw [hi]; rfl)
  simp only [ringPublish, hfind, hi]

/-! ### The arbiter -/

theorem writerWaits_iff (r : Receiver) :
    writerWaits r = true ↔ ∃ k data written rest, r.fifo = .line k data written :: rest ∧ written < data.length := by
  unfold writerWaits
  split
  · rename_i k data written rest h
    rw [h]
    constructor
    · exact fun hw => ⟨k, data, written, rest, rfl, of_decide_eq_true hw⟩
    · rintro ⟨_, _, _, _, heq, hw⟩
      cases heq
      exact decide_eq_true hw
  · rename_i hno
    exact iff_of_false (by simp) fun ⟨k, data, written, rest, heq, _⟩ => hno k data written rest heq

/-- The cameras in the order in which the arbiter asks them, by their distance from the one after the last served. -/
theorem find_rotation {p : Fin 4 → Bool} (last i : Fin 4) (hp : p (last + 1 + i) = true)
    (hlt : ∀ j < i, p (last + 1 + j) = false) :
    [last + 1, last + 2, last + 3, last].find? p = some (last + 1 + i) := by
  have hlist : [last + 1, last + 2, last + 3, last] =
      [last + 1 + 0, last + 1 + 1, last + 1 + 2, last + 1 + 3] := by
    clear hp hlt
    revert last; decide
  rw [hlist]
  match i with
  | 0 => simp only [List.find?, hp]
  | 1 => simp only [List.find?, hlt 0 (by decide), hp]
  | 2 => simp only [List.find?, hlt 0 (by decide), hlt 1 (by decide), hp]
  | 3 => simp only [List.find?, hlt 0 (by decide), hlt 1 (by decide), hlt 2 (by decide), hp]

theorem rotation_distance (last i : Fin 4) : last + 1 + i - last - 1 = i := by
  revert last i; decide

theorem rotation_surj (last c : Fin 4) : last + 1 + (c - last - 1) = c := by
  revert last c; decide

theorem nextWriter_of_first {cr : Quad Receiver} {last c : Camera} (hc : writerWaits (cr.get c) = true)
    (hmin : ∀ x, writerWaits (cr.get x) = true → (c - last - 1).val ≤ (x - last - 1).val) :
    nextWriter cr last = some c := by
  have hfind := find_rotation (p := fun c => writerWaits (cr.get c)) last (c - last - 1)
    (by rw [rotation_surj]; exact hc) fun j hj => Bool.eq_false_iff.mpr fun hw => by
      have := hmin _ hw
      rw [rotation_distance] at this
      omega
  rw [nextWriter, hfind, rotation_surj]

theorem nextWriter_of_none {cr : Quad Receiver} (last : Camera) (h : ∀ c, writerWaits (cr.get c) = false) :
    nextWriter cr last = none := by
  simp [nextWriter, List.find?, h]

/-- An engine's wants name each camera once, so an ask finds the want that names it. -/
theorem find_of_pairwise_cam {l : List Contribution} {k : Contribution} (hl : l.Pairwise fun a b => a.cam ≠ b.cam)
    (hk : k ∈ l) : l.find? (fun x => x.cam == k.cam) = some k := by
  induction l with
  | nil => cases hk
  | cons a l ih =>
    rw [List.pairwise_cons] at hl
    rcases List.mem_cons.mp hk with rfl | hk
    · simp
    · rw [List.find?_cons_of_neg (by simpa using hl.1 k hk), ih hl.2 hk]

theorem contribution_cam {nodes : List (Nat × NodeRecord)} {set : CompSet} {cut : Quad Bool} {x y : Nat} {c : Camera}
    {k : Contribution} (h : contribution nodes set cut x y c = some k) : k.cam = c := by
  unfold contribution at h
  split at h
  · split at h
    · cases h
    · split at h
      · cases h
      · dsimp only at h
        split at h
        · cases h; rfl
        · cases h
  · cases h

theorem contributions_pairwise (nodes : List (Nat × NodeRecord)) (set : CompSet) (cut : Quad Bool) (x y : Nat) :
    (contributions nodes set cut x y).Pairwise fun a b => a.cam ≠ b.cam := by
  unfold contributions
  split
  · exact .nil
  · refine List.Pairwise.filterMap _ ?_ (show cameras.Pairwise (· ≠ ·) by decide)
    rintro c c' hne k hk k' hk'
    rw [contribution_cam hk, contribution_cam hk']
    exact hne

theorem CE.wanted_pairwise (ce : CE) (nodes : List (Nat × NodeRecord)) :
    (ce.wanted nodes).Pairwise fun a b => a.cam ≠ b.cam := by
  refine List.Pairwise.filter _ ?_
  unfold CE.contributing
  split
  · split
    · exact contributions_pairwise ..
    · exact .nil
  · exact .nil

section
variable {s : State} (t : Stamp) (ask : Camera) (hrun : s.pu.run.operational = true) (hfree : s.fmc.transfer = none)
include hrun hfree

theorem exec_arbiterGrant_writer {c : Camera} (h : nextWriter s.cr s.fmc.lastServed = some c) :
    exec (.arbiterGrant t ask) s =
      .next { s with timebase := t, fmc := { s.fmc with transfer := some (.writer c), lastServed := c } } := by
  change execArbiterGrant t ask s = _
  simp only [execArbiterGrant, hrun, hfree, h, Option.isNone_none, Bool.and_self, if_true]
  rfl

theorem exec_arbiterGrant_taps {k : Contribution} {set : CompSet} (h : nextWriter s.cr s.fmc.lastServed = none)
    (hk : (s.ce.wanted s.nodes).find? (fun k => k.cam == ask) = some k) (hset : s.ce.set = some set) :
    exec (.arbiterGrant t ask) s =
      .next
        { s with
          timebase := t
          fmc :=
            { s.fmc with
              transfer :=
                some (.taps k.cam k.source.slot k.source.counter set.frameNo s.ce.line s.ce.pixels.length k.u k.v
                  k.source.width k.source.height) } } := by
  change execArbiterGrant t ask s = _
  simp only [execArbiterGrant, hrun, hfree, h, hk, hset, Option.isNone_none, Bool.and_self, if_true]
  rfl

theorem exec_arbiterGrant_nothing (h : nextWriter s.cr s.fmc.lastServed = none)
    (hk : (s.ce.wanted s.nodes).find? (fun k => k.cam == ask) = none) :
    exec (.arbiterGrant t ask) s = .next { s with timebase := t } := by
  change execArbiterGrant t ask s = _
  simp only [execArbiterGrant, hrun, hfree, h, hk, Option.isNone_none, Bool.and_self, if_true]
  rfl

end

/-! ### Silence -/

theorem exec_silenceExpiry_acquiring {s : State} {t : Stamp} {c : Camera}
    (ht : t = (s.cr.get c).lastArrival + BitVec.ofNat 32 (s.cr.get c).threshold)
    (hq : (s.cr.get c).qual = .acquiring) :
    exec (.silenceExpiry t c) s = .next ((s.arrive t).setReceiver c (s.cr.get c).silence) := by
  change execSilenceExpiry t c s = _
  simp only [execSilenceExpiry, hq, ← ht]
  simp [Qual.timed, Qual.qualified]

theorem exec_silenceExpiry_qualified {s : State} {t : Stamp} {c : Camera}
    (ht : t = (s.cr.get c).lastArrival + BitVec.ofNat 32 (s.cr.get c).threshold)
    (hq : (s.cr.get c).qual = .locked ∨ (s.cr.get c).qual = .holdover) :
    exec (.silenceExpiry t c) s = .next
      ((((s.arrive t).handFault
        ⟨.cam c, .silence, t, (s.cr.get c).openFrame.bind fun f => f.info.map Info.counter, none, none⟩).setReceiver c
          (s.cr.get c).silence).raise .qualificationLost (.cam c) 0 t) := by
  change execSilenceExpiry t c s = _
  rcases hq with hq | hq <;>
  · simp only [execSilenceExpiry, hq, ← ht]
    simp [Qual.timed, Qual.qualified]

end Sys2Proof.Machine
namespace Sys2Proof.Proofs
open Sys2Proof Sys2Proof.Machine

/-- Settles O37: each request acts on the ring alone, and each slot after it is read off the operation. -/
theorem ringRequests : Obligations.RingRequests := by
  intro s t c rest r ring left
  refine ⟨fun i hf hi => ?_, fun hf => ?_, fun hf => ?_, fun close n hf => ⟨fun hn => ?_, fun i o hr hi => ?_⟩⟩
  · refine ⟨ringOpen ring t, exec_openRequest t hf, fun j => ?_⟩
    have hopen : ringOpen ring t = Trio.set ring i (.filling t) := by
      rcases hi with ⟨hi, hlt⟩ | ⟨hn, hi, hlt⟩
      · exact ringOpen_of_filling t hi hlt
      · exact ringOpen_of_free t hn hi hlt
    rw [hopen, Trio.get_set]
  · exact exec_abandonRequest t hf
  · exact exec_dropReadyRequest t hf
  · refine (exec_publishRequest t hf).trans ?_
    rw [State.ringActed, ringPublish_of_none close n hn]
  · refine ⟨ringPublish ring close n, exec_publishRequest t hf, fun j => ?_⟩
    rw [ringPublish_of_filling close n hr hi, Trio.get_set, freeWhere_get]

/-- Settles O38: the rotation finds the waiting writer that comes first; without one, the ask finds the want that names
it, since an engine wants the taps of a camera once. -/
theorem arbiterGrants : Obligations.ArbiterGrants := by
  intro s t hstart hmem hfree waits
  have hrun : s.pu.run.operational = true := by
    cases h : s.pu.run <;> simp_all [RunState.operational]
  have none_waits (h : ∀ c, ¬ waits c) : nextWriter s.cr s.fmc.lastServed = none :=
    nextWriter_of_none _ fun c => Bool.eq_false_iff.mpr fun hw => h c ((writerWaits_iff _).mp hw)
  refine ⟨fun c ask hc hmin => ?_, fun k set hn hk hset => ?_, fun ask hn hk => ?_⟩
  · exact exec_arbiterGrant_writer t ask hrun hfree
      (nextWriter_of_first ((writerWaits_iff _).mpr hc) fun x hx => hmin x ((writerWaits_iff _).mp hx))
  · exact exec_arbiterGrant_taps t k.cam hrun hfree (none_waits hn)
      (find_of_pairwise_cam (s.ce.wanted_pairwise s.nodes) hk) hset
  · refine exec_arbiterGrant_nothing t ask hrun hfree (none_waits hn) (List.find?_eq_none.mpr fun k hmem => ?_)
    simpa using hk k hmem

/-- Settles O36: the two cases of the silence of a port, the fault handed before the receiver changes. -/
theorem silenceExpires : Obligations.SilenceExpires := by
  intro s t c r ht silent abandon
  refine ⟨fun hq => ?_, fun hq => ?_⟩
  · refine (exec_silenceExpiry_acquiring ht hq).trans ?_
    have hsil : r.silence = { silent with fifo := r.fifo ++ abandon } := by
      simp only [Receiver.silence, show r.qual = .acquiring from hq, Qual.qualified]
      simp [silent, abandon]
    rw [show s.cr.get c = r from rfl, hsil]
    rfl
  · refine (exec_silenceExpiry_qualified ht hq).trans ?_
    have hsil : r.silence = { silent with fifo := r.fifo ++ abandon ++ [.dropReadyReq] } := by
      have hqual : r.qual.qualified = true := by
        rcases hq with hq | hq <;> rw [show r.qual = _ from hq] <;> rfl
      simp only [Receiver.silence, hqual]
      simp [silent, abandon]
    simp only [State.handFault_eq, State.raise]
    rw [show s.cr.get c = r from rfl, hsil]
    rfl

end Sys2Proof.Proofs
end

section
set_option deprecated.oldSectionVars true -- proofs in sequence: their tasks would not fit the thread limit
/-! What the packets of a camera do to its port: INFO, LINE and foreign packets, frame opens and frame closes (Chapters 3
and 4). -/
namespace Sys2Proof.Machine

/-! ### The receiver that a packet finds -/

theorem Quad.set_set {α : Type} (q : Quad α) (i : Fin 4) (a b : α) : (q.set i a).set i b = q.set i b :=
  Quad.ext_get fun j => by simp only [Quad.get_set]; split <;> rfl

theorem Quad.set_get_self {α : Type} (q : Quad α) (i : Fin 4) : q.set i (q.get i) = q :=
  Quad.ext_get fun j => by rw [Quad.get_set]; split <;> simp_all

/-- A packet has come to the port of a camera, which it leaves in this state. -/
def State.atPort (s : State) (t : Stamp) (c : Camera) (r : Receiver) : State :=
  { s with timebase := t, cr := s.cr.set c r }

theorem State.atPort_cr_get (s : State) (t : Stamp) (c : Camera) (r : Receiver) : (s.atPort t c r).cr.get c = r :=
  Quad.get_set_same ..

theorem State.atPort_self (s : State) (t : Stamp) (c : Camera) : s.atPort t c (s.cr.get c) = { s with timebase := t } := by
  rw [State.atPort, Quad.set_get_self]

theorem Qual.timed_iff (q : Qual) : q.timed = true ↔ q = .acquiring ∨ q = .locked ∨ q = .holdover := by
  cases q <;> simp [Qual.timed]

theorem Qual.untimed_iff (q : Qual) : q.timed = false ↔ q = .disabled ∨ q = .noSignal := by
  cases q <;> simp [Qual.timed]

theorem Receiver.touch_of_timed {r : Receiver} (t : Stamp) (h : r.qual.timed = true) :
    r.touch t = { r with lastArrival := t } := if_pos h

theorem Receiver.touch_of_untimed {r : Receiver} (t : Stamp) (h : r.qual.timed = false) : r.touch t = r :=
  if_neg (by simp [h])

theorem Receiver.height_of_descriptor {r : Receiver} {d : Descriptor} (h : r.descriptor = some d) :
    r.height = d.height := by rw [Receiver.height, h]; rfl

theorem Receiver.width_of_descriptor {r : Receiver} {d : Descriptor} (h : r.descriptor = some d) :
    r.width = d.width := by rw [Receiver.width, h]; rfl

/-! ### INFO, LINE and foreign packets -/

section
variable {s : State} {c : Camera} (t : Stamp) (g : Receiver → OpenFrame → Receiver)

theorem receive_of_untimed (h : (s.cr.get c).qual.timed = false) : receive t c g s = .next { s with timebase := t } := by
  rw [receive, Receiver.touch_of_untimed t h]
  simp only [h]
  exact congrArg Host.Outcome.next (s.atPort_self t c)

theorem receive_of_silent (h : (s.cr.get c).qual.timed = true)
    (hf : (s.cr.get c).openFrame = none ∨ ∃ f x, (s.cr.get c).openFrame = some f ∧ f.failure = some x) :
    receive t c g s = .next (s.atPort t c { s.cr.get c with lastArrival := t }) := by
  rw [receive, Receiver.touch_of_timed t h]
  rcases hf with hf | ⟨f, x, hf, hx⟩
  · simp only [h, hf]
    rfl
  · simp only [h, hf, hx]
    rfl

theorem receive_of_receiving {f : OpenFrame} (h : (s.cr.get c).qual.timed = true)
    (hf : (s.cr.get c).openFrame = some f) (hx : f.failure = none) :
    receive t c g s = .next (s.atPort t c (g { s.cr.get c with lastArrival := t } f)) := by
  rw [receive, Receiver.touch_of_timed t h]
  simp only [h, hf, hx]
  rfl

end

theorem packetType_foreign {type : Byte} (h : type ∉ [1#8, 2#8, 4#8, 8#8]) : packetType type = .foreign := by
  simp only [List.mem_cons, List.not_mem_nil, or_false, not_or] at h
  obtain ⟨h1, h2, h4, h8⟩ := h
  simp only [packetType, h1, h2, h4, h8, if_false]

theorem exec_info (t : Stamp) (c : Camera) (p : List Byte) (s : State) :
    exec (.info t c p) s = receive t c (fun r f => r.takeInfo f p t) s := rfl

theorem exec_line (t : Stamp) (c : Camera) (p : List Byte) (s : State) :
    exec (.line t c p) s = receive t c (fun r f => r.takeLine f p t) s := rfl

theorem exec_foreignPacket {type : Byte} (t : Stamp) (c : Camera) (p : List Byte) (s : State)
    (h : type ∉ [1#8, 2#8, 4#8, 8#8]) :
    exec (.foreignPacket t c type p) s = receive t c (fun r f => r.fail f .struct t (some f.next)) s :=
  if_pos (packetType_foreign h)

/-! ### The bytes of an INFO and of a LINE -/

theorem leBytes_leNat (l : List Byte) : leBytes l.length (leNat l) = l := by
  induction l with
  | nil => rfl
  | cons b l ih =>
    have hb : b.toNat < 256 := b.isLt
    have hlow : BitVec.ofNat 8 (b.toNat + 256 * leNat l) = b := BitVec.eq_of_toNat_eq (by simp; omega)
    have hrest : (b.toNat + 256 * leNat l) / 256 = leNat l := by omega
    simp only [List.length_cons, leNat, leBytes, hlow, hrest, ih]

/-- The first eight bytes of an INFO. -/
def Info.body (i : Info) : List Byte :=
  leBytes 2 i.counter.toNat ++ leBytes 2 i.brightness.toNat ++ leBytes 2 i.exposure.toNat ++ [i.gainCode, i.temperature]

/-- The ten bytes that carry an INFO. -/
def Info.bytes (i : Info) : List Byte := i.body ++ leBytes 2 (crc i.body).toNat

theorem leNat_two (v : Half) : leNat (leBytes 2 v.toNat) = v.toNat := leNat_leBytes v.isLt

theorem infoOf_bytes (i : Info) : infoOf i.bytes = i := by
  have hfields (a b d e : List Byte) (x y : Byte) (ha : a.length = 2) (hb : b.length = 2) (hd : d.length = 2) :
      field (a ++ b ++ d ++ [x, y] ++ e) 0 2 = leNat a ∧ field (a ++ b ++ d ++ [x, y] ++ e) 2 2 = leNat b ∧
      field (a ++ b ++ d ++ [x, y] ++ e) 4 2 = leNat d ∧ (a ++ b ++ d ++ [x, y] ++ e).getD 6 0#8 = x ∧
      (a ++ b ++ d ++ [x, y] ++ e).getD 7 0#8 = y := by
    obtain ⟨a0, a1, rfl⟩ := List.length_eq_two.mp ha
    obtain ⟨b0, b1, rfl⟩ := List.length_eq_two.mp hb
    obtain ⟨d0, d1, rfl⟩ := List.length_eq_two.mp hd
    exact ⟨rfl, rfl, rfl, rfl, rfl⟩
  obtain ⟨h0, h2, h4, h6, h7⟩ := hfields (leBytes 2 i.counter.toNat) (leBytes 2 i.brightness.toNat)
    (leBytes 2 i.exposure.toNat) (leBytes 2 (crc i.body).toNat) i.gainCode i.temperature (by simp) (by simp) (by simp)
  simp only [infoOf, Info.bytes, Info.body] at *
  rw [h0, h2, h4, h6, h7]
  simp [leNat_two]

theorem infoGood_bytes (i : Info) : infoGood i.bytes = true := by
  have hbody : i.body.length = 8 := by simp [Info.body]
  have htake : i.bytes.take 8 = i.body := by rw [Info.bytes, ← hbody, List.take_left]
  have hcrc : field i.bytes 8 2 = (crc i.body).toNat := by
    rw [field, Info.bytes, ← hbody, List.drop_left, List.take_of_length_le (by simp), leNat_leBytes (crc i.body).isLt]
  have hlen : i.bytes.length = 10 := by simp [Info.bytes, hbody]
  simp only [infoGood, htake, hcrc, hlen, beq_self_eq_true, Bool.and_self]

theorem exists_info_of_infoGood {p : List Byte} (h : infoGood p = true) : ∃ i : Info, p = i.bytes := by
  simp only [infoGood, Bool.and_eq_true, beq_iff_eq] at h
  obtain ⟨hlen, hcrc⟩ := h
  obtain ⟨b0, b1, b2, b3, b4, b5, b6, b7, b8, b9, rfl⟩ : ∃ b0 b1 b2 b3 b4 b5 b6 b7 b8 b9 : Byte,
      p = [b0, b1, b2, b3, b4, b5, b6, b7, b8, b9] := by
    clear hcrc
    match p, hlen with
    | [b0, b1, b2, b3, b4, b5, b6, b7, b8, b9], _ => exact ⟨b0, b1, b2, b3, b4, b5, b6, b7, b8, b9, rfl⟩
  have hpair (a b : Byte) : leBytes 2 (BitVec.ofNat 16 (leNat [a, b])).toNat = [a, b] := by
    have hlt : leNat [a, b] < 2 ^ 16 := (leNat_lt [a, b]).trans_eq (by simp)
    rw [BitVec.toNat_ofNat, Nat.mod_eq_of_lt hlt]
    exact leBytes_leNat [a, b]
  refine ⟨infoOf [b0, b1, b2, b3, b4, b5, b6, b7, b8, b9], ?_⟩
  have hbody : (infoOf [b0, b1, b2, b3, b4, b5, b6, b7, b8, b9]).body = [b0, b1, b2, b3, b4, b5, b6, b7] := by
    change leBytes 2 (BitVec.ofNat 16 (leNat [b0, b1])).toNat ++ leBytes 2 (BitVec.ofNat 16 (leNat [b2, b3])).toNat ++
      leBytes 2 (BitVec.ofNat 16 (leNat [b4, b5])).toNat ++ [b6, b7] = _
    rw [hpair, hpair, hpair]
    rfl
  have htail : leBytes 2 (crc [b0, b1, b2, b3, b4, b5, b6, b7]).toNat = [b8, b9] := by
    rw [show (crc [b0, b1, b2, b3, b4, b5, b6, b7]).toNat = leNat [b8, b9] from hcrc]
    exact leBytes_leNat [b8, b9]
  rw [Info.bytes, hbody, htail]
  rfl

theorem field_leBytes_append {n v : Nat} (hv : v < 256 ^ n) (data : List Byte) :
    field (leBytes n v ++ data) 0 n = v := by
  rw [field, List.drop_zero, List.take_left' (leBytes_length n v), leNat_leBytes hv]

/-! ### What a RECEIVING frame does with an INFO or a LINE -/

section
variable {r : Receiver} {f : OpenFrame} {p : List Byte} (t : Stamp)

theorem Receiver.takeInfo_of_bytes (hf : f.info = none) (i : Info) :
    r.takeInfo f i.bytes t = { r with openFrame := some { f with info := some i } } := by
  simp only [Receiver.takeInfo, hf, infoGood_bytes, infoOf_bytes, if_true]

theorem Receiver.takeInfo_of_bad (hf : f.info = none) (hp : ∀ i : Info, p ≠ i.bytes) :
    r.takeInfo f p t = r.fail f .infoCrc t none := by
  have hbad : infoGood p = false := Bool.eq_false_iff.mpr fun h =>
    (exists_info_of_infoGood h).elim fun i hi => hp i hi
  simp only [Receiver.takeInfo, hf, hbad]
  rfl

theorem Receiver.takeInfo_of_second (hf : f.info ≠ none) : r.takeInfo f p t = r.fail f .struct t (some f.next) := by
  obtain ⟨i, hi⟩ := Option.ne_none_iff_exists'.mp hf
  simp only [Receiver.takeInfo, hi]

theorem Receiver.takeLine_of_no_info (hf : f.info = none) : r.takeLine f p t = r.fail f .infoCrc t none :=
  if_pos (by rw [hf]; rfl)

theorem Receiver.takeLine_of_short (hf : f.info ≠ none) (hp : p.length < 2) :
    r.takeLine f p t = r.fail f .lineLength t (some f.next) := by
  obtain ⟨i, hi⟩ := Option.ne_none_iff_exists'.mp hf
  simp only [Receiver.takeLine, hi, hp]
  rfl

/-- The four checks of a line that carries an index, in their order, and its placing. -/
theorem Receiver.takeLine_of_index {index : Nat} {data : List Byte} (hf : f.info ≠ none) (hi : index < 65536) :
    r.takeLine f (leBytes 2 index ++ data) t =
      if f.next = r.height then r.fail f .struct t (some r.height)
      else if index ≠ f.next then r.fail f .struct t (some f.next)
      else if data.length ≠ 2 * r.width then r.fail f .lineLength t (some index)
      else if 2 ≤ lineEntries r.fifo then r.fail f .overflow t (some index)
      else { r with openFrame := some { f with next := f.next + 1 }, fifo := r.fifo ++ [.line index data 0] } := by
  obtain ⟨i, hinfo⟩ := Option.ne_none_iff_exists'.mp hf
  have hlen : (leBytes 2 index ++ data).length - 2 = data.length := by simp
  have hshort : ¬ (leBytes 2 index ++ data).length < 2 := by
    rw [List.length_append, leBytes_length]
    omega
  have hdata : (leBytes 2 index ++ data).drop 2 = data := List.drop_left' (leBytes_length 2 index)
  simp only [Receiver.takeLine, hinfo, field_leBytes_append (n := 2) hi, hlen, hshort, hdata, Config.writeFifoLines]
  rfl

end

end Sys2Proof.Machine
namespace Sys2Proof.Proofs
open Sys2Proof Sys2Proof.Machine

/-- Settles O33: a packet reaches only a RECEIVING frame, which takes it by the checks of an INFO or of a line. -/
theorem packetsInFrame : Obligations.PacketsInFrame := by
  intro s t c p r with' packets wire
  have received (i : Instr) (h : packets i) : ∃ g, exec i s = receive t c g s := by
    rcases h with rfl | rfl | ⟨type, rfl, htype⟩
    · exact ⟨_, exec_info t c p s⟩
    · exact ⟨_, exec_line t c p s⟩
    · exact ⟨_, exec_foreignPacket t c p s htype⟩
  refine ⟨⟨rfl, rfl, rfl, rfl, fun type htype => ?_⟩, fun i hi hq => ?_, fun i hi hq hf => ?_, ?_⟩
  · simp only [packetCommand, packetType_foreign htype]
  · obtain ⟨g, hg⟩ := received i hi
    exact hg.trans (receive_of_untimed t g ((Qual.untimed_iff _).mpr hq))
  · obtain ⟨g, hg⟩ := received i hi
    exact hg.trans (receive_of_silent t g ((Qual.timed_iff _).mpr hq) hf)
  · intro f hq hf hx fails
    have took (g : Receiver → OpenFrame → Receiver) :
        receive t c g s = .next (s.atPort t c (g { r with lastArrival := t } f)) :=
      receive_of_receiving t g ((Qual.timed_iff _).mpr hq) hf hx
    refine ⟨?_, ?_, ?_, ?_, ?_, ?_, ?_⟩
    · rintro i hnone - rfl
      refine (exec_info ..).trans ((took _).trans ?_)
      rw [show wire i = i.bytes from rfl, Receiver.takeInfo_of_bytes t hnone i]
      rfl
    · intro hnone _ hp
      refine (exec_info ..).trans ((took _).trans ?_)
      rw [Receiver.takeInfo_of_bad t hnone hp]
      rfl
    · intro hsome
      refine (exec_info ..).trans ((took _).trans ?_)
      rw [Receiver.takeInfo_of_second t hsome]
      rfl
    · intro hnone
      refine (exec_line ..).trans ((took _).trans ?_)
      rw [Receiver.takeLine_of_no_info t hnone]
      rfl
    · intro hsome hp
      refine (exec_line ..).trans ((took _).trans ?_)
      rw [Receiver.takeLine_of_short t hsome hp]
      rfl
    · intro d index data hd hsome hi hp
      have hline := (exec_line t c p s).trans (took _)
      rw [hp, Receiver.takeLine_of_index t hsome hi, Receiver.height_of_descriptor (r := { r with lastArrival := t }) hd,
        Receiver.width_of_descriptor (r := { r with lastArrival := t }) hd, ← hp] at hline
      refine ⟨fun h => ?_, fun h hne => ?_, fun h he hl => ?_, fun h he hl ho => ?_, fun h he hl ho => ?_⟩
      · rw [if_pos h] at hline
        exact hline
      · rw [if_neg h, if_pos hne] at hline
        exact hline
      · rw [if_neg h, if_neg (not_not.mpr he), if_pos hl] at hline
        exact hline
      · rw [if_neg h, if_neg (not_not.mpr he), if_neg (not_not.mpr hl), if_pos ho] at hline
        exact hline
      · rw [if_neg h, if_neg (not_not.mpr he), if_neg (not_not.mpr hl), if_neg (not_le.mpr ho)] at hline
        exact hline
    · intro type htype
      exact (exec_foreignPacket t c p s htype).trans (took _)

end Sys2Proof.Proofs
end

section
set_option deprecated.oldSectionVars true -- proofs in sequence: their tasks would not fit the thread limit
/-! Frame opens and frame closes of a camera: the close of a good and of a bad frame with qualification, fault and notice
(Chapters 3 and 4). -/
namespace Sys2Proof.Machine

/-! ### Frame closes -/

theorem State.handFault_atPort (s : State) (t : Stamp) (c : Camera) (r : Receiver) (x : FaultReport) :
    (s.atPort t c r).handFault x = (s.handFault x).atPort t c r := by
  simp only [State.handFault_eq]
  rfl

theorem State.setReceiver_atPort (s : State) (t : Stamp) (c : Camera) (r r' : Receiver) :
    (s.atPort t c r).setReceiver c r' = s.atPort t c r' :=
  congrArg (fun cr => { s with timebase := t, cr := cr }) (Quad.set_set ..)

/-- A frame that the port of a qualified stream closes as bad hands its fault. -/
def State.badFault (s : State) (c : Camera) (q : Qual) (f : OpenFrame) (x : Failure) : State :=
  if q.qualified then s.handFault ⟨.cam c, x.kind, x.stamp, f.info.map Info.counter, x.line, none⟩ else s

/-- A good frame that does not follow the last published one hands SKIP. -/
def State.skipFault (s : State) (c : Camera) (r : Receiver) (i : Info) (t : Stamp) : State :=
  if skips r i then s.handFault ⟨.cam c, .skip, t, some i.counter, none, none⟩ else s

/-- The relief flag of a published frame. -/
def HU.relieved (h : HU) (c : Camera) (due : Bool) : HU := if due then { h with relief := h.relief.set c true } else h

section
variable {s : State} {t : Stamp} {c : Camera} {r : Receiver}

/-- A bad close, written out: the fault of a qualified port, its receiver, and the notice of the verdict `v`. -/
theorem State.closeBad_atPort {f : OpenFrame} {x : Failure} {v : Verdict}
    (hv : judgeBad r.qual r.badRun ((r.descriptor.map Descriptor.lose).getD 0) = v) :
    (s.atPort t c r).closeBad c f x t =
      ((s.badFault c r.qual f x).atPort t c (r.closeBad x v)).raiseIf v.notice (.cam c) t := by
  unfold State.closeBad State.badFault
  simp only [State.atPort_cr_get, hv]
  split
  · rw [State.handFault_atPort, State.setReceiver_atPort]
  · rw [State.setReceiver_atPort]

/-- A bad close does not look at the open frame that the receiver holds, and only at the INFO of the one it closes. -/
theorem State.closeBad_of_info {f f' : OpenFrame} (o : Option OpenFrame) (x : Failure) (h : f'.info = f.info) :
    (s.atPort t c { r with openFrame := o }).closeBad c f' x t = (s.atPort t c r).closeBad c f x t := by
  rw [State.closeBad_atPort rfl, State.closeBad_atPort rfl]
  simp only [State.badFault, h, Receiver.closeBad]

theorem State.closeBad_atPort_receiver (f : OpenFrame) (x : Failure) :
    ((s.atPort t c r).closeBad c f x t).cr.get c =
      r.closeBad x (judgeBad r.qual r.badRun ((r.descriptor.map Descriptor.lose).getD 0)) := by
  rw [State.closeBad_atPort rfl, State.raiseIf_cr, State.atPort_cr_get]

/-- A good close, written out: SKIP, the receiver, the relief flag, and the notice of the verdict `v`. -/
theorem State.closeGood_atPort {i : Info} {v : Verdict}
    (hv : judgeGood r.qual r.goodRun r.badRun ((r.descriptor.map Descriptor.acquire).getD 0) = v) :
    (s.atPort t c r).closeGood c i t =
      (({ s.skipFault c r i t with
          hu := s.hu.relieved c (v.publish && reliefDue r.bprev i.brightness) } : State).atPort t c
        (r.closeGood i v t)).raiseIf v.notice (.cam c) t := by
  have hskip : (if skips r i then (s.atPort t c r).handFault ⟨.cam c, .skip, t, some i.counter, none, none⟩
      else s.atPort t c r) = (s.skipFault c r i t).atPort t c r := by
    unfold State.skipFault
    split
    · rw [State.handFault_atPort]
    · rfl
  have hhu : (s.skipFault c r i t).hu = s.hu := by
    unfold State.skipFault
    split
    · rw [State.handFault_hu]
    · rfl
  unfold State.closeGood
  simp only [State.atPort_cr_get, hv, hskip, State.setReceiver_atPort]
  congr 1
  unfold HU.relieved
  rw [← hhu]
  split <;> rfl

end

section
variable {s : State} {c : Camera} (t : Stamp) (p : List Byte)

theorem exec_frameClose_of_untimed (h : (s.cr.get c).qual.timed = false) :
    exec (.frameClose t c p) s = .next { s with timebase := t } := by
  change execFrameClose t c p s = _
  simp only [execFrameClose, Receiver.touch_of_untimed t h, h]
  exact congrArg Host.Outcome.next (s.atPort_self t c)

variable {r : Receiver} (hr : (s.cr.get c).touch t = r) (h : r.qual.timed = true)
include hr h

theorem exec_frameClose_of_outside (hf : r.openFrame = none) :
    exec (.frameClose t c p) s = .next (s.atPort t c r) := by
  change execFrameClose t c p s = _
  simp only [execFrameClose, hr, h, hf]
  rfl

theorem exec_frameClose_of_bad {f : OpenFrame} {x : Failure} (hf : r.openFrame = some f)
    (hj : judgeFrame f r.height t = .inl x) :
    exec (.frameClose t c p) s = .next ((s.atPort t c r).closeBad c f x t) := by
  change execFrameClose t c p s = _
  simp only [execFrameClose, hr, h, hf, hj]
  rfl

theorem exec_frameClose_of_good {f : OpenFrame} {i : Info} (hf : r.openFrame = some f)
    (hj : judgeFrame f r.height t = .inr i) :
    exec (.frameClose t c p) s = .next ((s.atPort t c r).closeGood c i t) := by
  change execFrameClose t c p s = _
  simp only [execFrameClose, hr, h, hf, hj]
  rfl

end

theorem judgeFrame_of_good {f : OpenFrame} {i : Info} {height : Nat} (t : Stamp) (hx : f.failure = none)
    (hi : f.info = some i) (hn : f.next = height) : judgeFrame f height t = .inr i := by
  simp [judgeFrame, hx, hi, hn]

theorem judgeFrame_of_bad {f : OpenFrame} {x : Failure} {height : Nat} {t : Stamp}
    (h : f.failure = some x ∨ (f.failure = none ∧ f.info = none ∧ x = ⟨.infoCrc, t, none⟩) ∨
      (f.failure = none ∧ f.info ≠ none ∧ f.next < height ∧ x = ⟨.struct, t, some f.next⟩)) :
    judgeFrame f height t = .inl x := by
  rcases h with hx | ⟨hx, hi, rfl⟩ | ⟨hx, hi, hn, rfl⟩
  · simp only [judgeFrame, hx]
  · simp only [judgeFrame, hx, hi]
  · obtain ⟨i, hi⟩ := Option.ne_none_iff_exists'.mp hi
    simp only [judgeFrame, hx, hi, hn, if_true]

/-! ### Frame opens -/

section
variable {s : State} {c : Camera} (t : Stamp) (p : List Byte)

theorem exec_frameOpen_of_disabled (h : (s.cr.get c).qual = .disabled) :
    exec (.frameOpen t c p) s = .next { s with timebase := t } := by
  change execFrameOpen t c p s = _
  simp only [execFrameOpen, Receiver.touch_of_untimed t (r := s.cr.get c) (by rw [h]; rfl), h]
  rfl

theorem exec_frameOpen_of_noSignal (h : (s.cr.get c).qual = .noSignal) :
    exec (.frameOpen t c p) s = .next (s.atPort t c (((s.cr.get c).acquire t).beginFrame t)) := by
  change execFrameOpen t c p s = _
  simp only [execFrameOpen, Receiver.touch_of_untimed t (r := s.cr.get c) (by rw [h]; rfl), h]
  rfl

variable {r : Receiver} (hr : (s.cr.get c).touch t = r) (h : r.qual.timed = true)
include hr h

theorem exec_frameOpen_of_outside (hf : r.openFrame = none) :
    exec (.frameOpen t c p) s = .next (s.atPort t c (r.beginFrame t)) := by
  change execFrameOpen t c p s = _
  simp only [execFrameOpen, hr, hf]
  rcases (Qual.timed_iff _).mp h with hq | hq | hq <;> rw [hq] <;> rfl

/-- The second open of a frame: the frame still open is closed as bad, and the next one begun. -/
theorem exec_frameOpen_of_open {f : OpenFrame} (hf : r.openFrame = some f) :
    exec (.frameOpen t c p) s = .next
      (((s.atPort t c r).closeBad c f (f.failure.getD ⟨.struct, t, some f.next⟩) t).setReceiver c
        ((((s.atPort t c r).closeBad c f (f.failure.getD ⟨.struct, t, some f.next⟩) t).cr.get c).beginFrame t)) := by
  change execFrameOpen t c p s = _
  simp only [execFrameOpen, hr, hf]
  rcases (Qual.timed_iff _).mp h with hq | hq | hq <;> rw [hq] <;> rfl

end

theorem judgeBad_timed {q : Qual} (h : q.timed = true) (b lose : Nat) : (judgeBad q b lose).qual.timed = true := by
  rcases (Qual.timed_iff q).mp h with rfl | rfl | rfl
  · rfl
  · unfold judgeBad
    dsimp only
    split <;> rfl
  · unfold judgeBad
    dsimp only
    split <;> rfl

theorem beginFrame_failure {d : Descriptor} {prev : Option Stamp} {t : Stamp} :
    (if periodFails (some d) prev t then some (⟨.period, t, none⟩ : Failure) else none) =
      match prev with
      | none => none
      | some q =>
        if d.nominal - d.nominal * d.tolerance / 100 ≤ (t - q).toNat ∧
            (t - q).toNat ≤ d.nominal + d.nominal * d.tolerance / 100 then none
        else some ⟨.period, t, none⟩ := by
  cases prev with
  | none => rfl
  | some q =>
    have hfails : periodFails (some d) (some q) t = true ↔
        ¬ (d.nominal - d.nominal * d.tolerance / 100 ≤ (t - q).toNat ∧
          (t - q).toNat ≤ d.nominal + d.nominal * d.tolerance / 100) := by
      simp only [periodFails, Bool.not_eq_true', Bool.and_eq_false_iff, decide_eq_false_iff_not, not_and_or]
      exact Iff.rfl
    by_cases h : periodFails (some d) (some q) t = true
    · exact (if_pos h).trans (if_neg (hfails.mp h)).symm
    · exact (if_neg h).trans (if_pos (not_not.mp fun hn => h (hfails.mpr hn))).symm

/-- The state in which the frame still open has failed, for STRUCTURE where it had no failure yet. -/
def State.failing (s : State) (c : Camera) (f : OpenFrame) (t : Stamp) : State :=
  { s with
    cr := s.cr.set c
      { s.cr.get c with openFrame := some { f with failure := some (f.failure.getD ⟨.struct, t, some f.next⟩) } } }

theorem State.atPort_of_timebase {s : State} {t : Stamp} (h : s.timebase = t) (c : Camera) (r : Receiver) :
    s.atPort t c r = s.setReceiver c r := by
  subst h
  rfl

/-- The FRAME_CLOSE of a failing frame and the FRAME_OPEN of the next one, at the same stamp. -/
theorem execAll_close_open {s : State} {c : Camera} (t : Stamp) (p : List Byte) (h : (s.cr.get c).qual.timed = true)
    (f : OpenFrame) :
    execAll [.frameClose t c p, .frameOpen t c p] (s.failing c f t) =
      let s1 := (s.atPort t c { s.cr.get c with lastArrival := t }).closeBad c f
        (f.failure.getD ⟨.struct, t, some f.next⟩) t
      .next (s1.setReceiver c ((s1.cr.get c).beginFrame t)) := by
  generalize hx : f.failure.getD ⟨.struct, t, some f.next⟩ = x
  generalize hr : ({ s.cr.get c with lastArrival := t } : Receiver) = r
  have hq : r.qual.timed = true := by rw [← hr]; exact h
  have htouch : ((s.failing c f t).cr.get c).touch t = { r with openFrame := some { f with failure := some x } } := by
    rw [State.failing, Quad.get_set_same]
    subst hr hx
    exact Receiver.touch_of_timed t h
  have hport (r' : Receiver) : (s.failing c f t).atPort t c r' = s.atPort t c r' :=
    congrArg (fun cr => { s with timebase := t, cr := cr }) (Quad.set_set ..)
  have hclose : exec (.frameClose t c p) (s.failing c f t) = .next ((s.atPort t c r).closeBad c f x t) := by
    rw [exec_frameClose_of_bad t p htouch hq rfl (judgeFrame_of_bad (.inl rfl)), hport]
    exact congrArg _ (State.closeBad_of_info _ x rfl)
  have hopen : exec (.frameOpen t c p) ((s.atPort t c r).closeBad c f x t) = .next
      (((s.atPort t c r).closeBad c f x t).setReceiver c
        ((((s.atPort t c r).closeBad c f x t).cr.get c).beginFrame t)) := by
    have hafter := State.closeBad_atPort_receiver (s := s) (t := t) (c := c) (r := r) f x
    have hqual := judgeBad_timed hq r.badRun ((r.descriptor.map Descriptor.lose).getD 0)
    have harrived : r.lastArrival = t := by rw [← hr]
    have hagain : (((s.atPort t c r).closeBad c f x t).cr.get c).touch t =
        r.closeBad x (judgeBad r.qual r.badRun ((r.descriptor.map Descriptor.lose).getD 0)) := by
      rw [hafter, Receiver.touch_of_timed t hqual]
      simp only [Receiver.closeBad, harrived]
    rw [exec_frameOpen_of_outside t p hagain hqual rfl, hafter]
    exact congrArg _ (State.atPort_of_timebase (State.closeBad_timebase ..) c _)
  simp only [execAll, hclose, hopen]

end Sys2Proof.Machine
namespace Sys2Proof.Proofs
open Sys2Proof Sys2Proof.Machine

/-- Settles O34: the close of a good frame, row by row of the qualification machine. -/
theorem goodFrameCloses : Obligations.GoodFrameCloses := by
  intro s t c p d f i r hd hf hx hi hn skip jump hu published faulted
  have closes (hq : r.qual.timed = true) {v : Verdict} (hv : judgeGood r.qual r.goodRun r.badRun d.acquire = v) :=
    (exec_frameClose_of_good t p (Receiver.touch_of_timed t hq) hq hf
      (judgeFrame_of_good t hx hi (hn.trans (Receiver.height_of_descriptor hd).symm))).trans
      (congrArg Host.Outcome.next (State.closeGood_atPort (r := { r with lastArrival := t }) (i := i) (v := v)
        (by rw [← hv]; simp only [hd]; rfl)))
  have hcr : faulted.cr = s.cr := by
    unfold faulted
    split
    · exact State.handFault_cr ..
    · rfl
  have unskipped (hq : r.qual = .acquiring) : skips { r with lastArrival := t } i = false := by
    simp only [skips, hq, Qual.qualified, Bool.false_and]
  have skipped (hq : r.qual.qualified = true) : skips { r with lastArrival := t } i = skip := by
    simp only [skips, hq, Bool.true_and, skip]
    cases r.lastPublished with
    | none => rfl
    | some n => exact (decide_not ..).symm
  have publishes (hq : r.qual.qualified = true) {q : Qual} {g b : Nat}
      (hv : judgeGood r.qual r.goodRun r.badRun d.acquire = ⟨q, g, b, true, false, none⟩) :
      exec (.frameClose t c p) s = .next
        { faulted with timebase := t, cr := s.cr.set c (published q g b skip), hu := hu } := by
    have htimed : r.qual.timed = true := by
      cases h : r.qual <;> simp_all [Qual.qualified, Qual.timed]
    have hfault : s.skipFault c { r with lastArrival := t } i t = faulted := by
      rw [State.skipFault, skipped hq]
    refine (closes htimed hv).trans ?_
    rw [hfault, Receiver.closeGood, skipped hq]
    simp only [State.atPort, hcr]
    rfl
  refine ⟨fun hq hg => ?_, fun hq hg => ?_, fun hq => ?_, fun hq hg => ?_, fun hq hg => ?_⟩
  · refine (closes (by rw [hq]; rfl) (v := ⟨.acquiring, r.goodRun + 1, 0, false, false, none⟩) (by
      rw [hq]; exact if_pos hg)).trans ?_
    simp only [State.skipFault, Receiver.closeGood, hq]
    rfl
  · refine (closes (by rw [hq]; rfl) (v := ⟨.locked, 0, 0, true, false, some .qualified⟩) (by
      rw [hq]; exact if_neg (by omega))).trans ?_
    simp only [State.skipFault, Receiver.closeGood, unskipped hq]
    rfl
  · exact publishes (by rw [hq]; rfl) (by rw [hq]; rfl)
  · exact publishes (by rw [hq]; rfl) (by rw [hq]; exact if_pos hg)
  · exact publishes (by rw [hq]; rfl) (by rw [hq]; exact if_neg (by omega))

/-- Settles O35: the close of a bad frame, row by row of the qualification machine. -/
theorem badFrameCloses : Obligations.BadFrameCloses := by
  intro s t c p r
  refine ⟨fun hq => exec_frameClose_of_untimed t p ((Qual.untimed_iff _).mpr hq), fun hq hf => ?_, ?_⟩
  · have htimed := (Qual.timed_iff _).mpr hq
    exact exec_frameClose_of_outside t p (Receiver.touch_of_timed t htimed) htimed hf
  · intro d f x hd hf hx counted closed faulted lost
    have hcr : faulted.cr = s.cr := State.handFault_cr ..
    have hcounted : r.counters.bad x.kind = counted := by
      unfold counted
      cases x.kind <;> rfl
    have closes (hq : r.qual.timed = true) {v : Verdict} (hv : judgeBad r.qual r.badRun d.lose = v) :
        exec (.frameClose t c p) s = .next
          (((s.badFault c r.qual f x).atPort t c
            { closed with
              qual := v.qual, goodRun := v.goodRun, badRun := v.badRun
              fifo := r.fifo ++ .abandonReq :: (if v.loss then [.dropReadyReq] else [])
              bprev := if v.loss then none else r.bprev
              lastPublished := if v.loss then none else r.lastPublished }).raiseIf v.notice (.cam c) t) := by
      refine (exec_frameClose_of_bad t p (Receiver.touch_of_timed t hq) hq hf
        (judgeFrame_of_bad (Receiver.height_of_descriptor hd ▸ hx))).trans (congrArg Host.Outcome.next ?_)
      have hlose : (r.descriptor.map Descriptor.lose).getD 0 = d.lose := by rw [hd]; rfl
      refine (State.closeBad_atPort (r := { r with lastArrival := t }) (v := v)
        ((congrArg (judgeBad r.qual r.badRun) hlose).trans hv)).trans ?_
      rw [Receiver.closeBad]
      simp only [closed, ← hcounted]
    have hfault (hq : r.qual.qualified = true) : s.badFault c r.qual f x = faulted := if_pos hq
    have loses (hq : r.qual.qualified = true)
        (hv : judgeBad r.qual r.badRun d.lose = ⟨.acquiring, 0, 0, false, true, some .qualificationLost⟩) :
        exec (.frameClose t c p) s = .next lost := by
      have htimed : r.qual.timed = true := by
        cases h : r.qual <;> simp_all [Qual.qualified, Qual.timed]
      refine (closes htimed hv).trans ?_
      rw [hfault hq]
      simp only [State.atPort, hcr]
      rfl
    refine ⟨fun hq => ?_, fun hq hl => ?_, fun hq hl => ?_, fun hq hl => ?_, fun hq hl => ?_⟩
    · refine (closes (by rw [hq]; rfl) (v := ⟨.acquiring, 0, 0, false, false, none⟩) (by rw [hq]; rfl)).trans ?_
      simp only [State.badFault, closed, hq]
      rfl
    · refine (closes (by rw [hq]; rfl) (v := ⟨.holdover, 0, 1, false, false, some .holdoverEntered⟩) (by
        rw [hq]; exact if_pos hl)).trans ?_
      rw [hfault (by rw [hq]; rfl)]
      simp only [State.atPort, hcr]
      rfl
    · exact loses (by rw [hq]; rfl) (by rw [hq]; exact if_neg (by omega))
    · refine (closes (by rw [hq]; rfl) (v := ⟨.holdover, 0, r.badRun + 1, false, false, none⟩) (by
        rw [hq]; exact if_pos hl)).trans ?_
      rw [hfault (by rw [hq]; rfl)]
      simp only [State.atPort, hcr, closed, hq]
      rfl
    · exact loses (by rw [hq]; rfl) (by rw [hq]; exact if_neg (by omega))

/-- Settles O32: a FRAME_OPEN by the state of the port; the second open of a frame closes it as its FRAME_CLOSE would. -/
theorem frameOpens : Obligations.FrameOpens := by
  intro s t c p r
  refine ⟨exec_frameOpen_of_disabled t p, ?_, ?_⟩
  · intro d hd deviation failure opened
    have hfailure : (if periodFails r.descriptor r.prevOpen t then some (⟨.period, t, none⟩ : Failure) else none) =
        failure := by
      rw [hd]
      exact beginFrame_failure
    refine ⟨fun hq => ?_, fun hq hf => ?_⟩
    · refine (exec_frameOpen_of_noSignal t p hq).trans (congrArg (fun x => Host.Outcome.next (s.atPort t c x)) ?_)
      change Receiver.beginFrame (Receiver.acquire r t) t = _
      rw [Receiver.acquire, Receiver.beginFrame, hfailure]
    · have htimed := (Qual.timed_iff _).mpr hq
      refine (exec_frameOpen_of_outside t p (Receiver.touch_of_timed t htimed) htimed hf).trans
        (congrArg (fun x => Host.Outcome.next (s.atPort t c x)) ?_)
      change Receiver.beginFrame { r with lastArrival := t } t = _
      rw [Receiver.beginFrame, hfailure]
  · intro f hq hf
    have htimed := (Qual.timed_iff _).mpr hq
    exact (exec_frameOpen_of_open t p (Receiver.touch_of_timed t htimed) htimed hf).trans
      (execAll_close_open t p htimed f).symm

end Sys2Proof.Proofs
end

section
set_option deprecated.oldSectionVars true -- proofs in sequence: their tasks would not fit the thread limit
/-! Power-on and memory initialisation, RESTART, the release of a camera's ring, and the writer transfers (Chapters 5
and 10). -/
namespace Sys2Proof.Machine

/-! ### Power-on and memory initialisation -/

/-- The state after power-on with the rate straps as sampled. -/
def State.poweredOn (s : State) (rate1 rate0 : Bool) : State :=
  { State.reset with lc := { LC.reset with rate1 := rate1, rate0 := rate0 }, free := s.free, pending := s.pending }

section
variable (s : State) (rate1 rate0 : Bool)

theorem exec_powerOn : exec (.powerOn rate1 rate0) s = .next (s.poweredOn rate1 rate0) := rfl

theorem State.poweredOn_cr (c : Camera) : (s.poweredOn rate1 rate0).cr.get c = .reset := Quad.get_all ..

theorem State.poweredOn_ring (c : Camera) (i : Fin 3) : ((s.poweredOn rate1 rate0).fmc.rings.get c).get i = .free :=
  (congrArg (Trio.get · i) (Quad.get_all ..)).trans (Trio.get_all ..)

theorem State.poweredOn_slot (v : Fin 4) : (s.poweredOn rate1 rate0).vs.slots.get v = .reset := Quad.get_all ..

theorem State.poweredOn_zone (c z : Fin 4) : ((s.poweredOn rate1 rate0).vs.zones.get c).get z = .reset :=
  (congrArg (Quad.get · z) (Quad.get_all ..)).trans (Quad.get_all ..)

theorem State.poweredOn_marks (src : FaultSource) (k : FaultKind) :
    ((s.poweredOn rate1 rate0).fu.marks src).get k = false := by
  cases src with
  | cam c => exact (congrArg (PerFault.get · k) (Quad.get_all ..)).trans (PerFault.get_all ..)
  | output => exact PerFault.get_all ..

end

section
variable {s : State} {t start : Stamp}

theorem exec_trainingComplete_answered (h : s.fmc.init = .training start) (ht : t = start + 1000#32) :
    exec (.trainingComplete t true) s = .next { s with timebase := t, fmc := { s.fmc with init := .filling start } } := by
  change execTrainingComplete t true s = _
  simp only [execTrainingComplete, h]
  exact if_pos ht

theorem exec_trainingComplete_unanswered (h : s.fmc.init = .training start) (ht : t = start + 1000#32) :
    exec (.trainingComplete t false) s = .next
      { s with
        timebase := t, fmc := { s.fmc with init := .idle }, pu := { s.pu with run := .memoryFault }
        nq := s.nq.raise .memoryFault .part 0 t } := by
  change execTrainingComplete t false s = _
  simp only [execTrainingComplete, h]
  exact if_pos ht

theorem exec_fillComplete (h : s.fmc.init = .filling start) (ht : t = start + 150000#32) :
    exec (.fillComplete t) s = .next
      { s with
        timebase := t, fmc := { s.fmc with init := .idle, mem := [], wordErrors := [] }
        pu := { s.pu with run := .stopped }, nq := s.nq.raise .memoryReady .part 0 t } := by
  change execFillComplete t s = _
  simp only [execFillComplete, h]
  exact if_pos ht

end

/-! ### Writer transfers -/

/-- A store changes nothing but the bytes and their codes. -/
theorem FMC.store_eq (m : FMC) (c : Camera) (row offset : Nat) (bytes : List Byte) :
    m.store c row offset bytes =
      { m with mem := (m.store c row offset bytes).mem, wordErrors := (m.store c row offset bytes).wordErrors } := by
  unfold FMC.store
  split <;> rfl

theorem State.writes_zero (s : State) (a : Nat) : s.writes 0 a = false := by
  unfold State.writes
  split
  · rw [Nat.zero_min, Bool.and_eq_false_iff, decide_eq_false_iff_not, decide_eq_false_iff_not]
    omega
  · rfl

theorem State.wroteFirst_zero (s : State) : s.wroteFirst 0 s.fmc where
  written _ _ i _ h := by omega
  kept _ _ := rfl
  fresh a h := by simp [s.writes_zero a] at h
  errors _ _ := rfl

theorem length_nextChunk (data : List Byte) (written : Nat) :
    (nextChunk data written).length = min 256 (data.length - written) := by
  rw [nextChunk, List.length_take, List.length_drop]
  rfl

section
variable {s : State} {c : Camera} {k written : Nat} {data : List Byte} {rest : List FifoEntry}
  (hf : (s.cr.get c).fifo = .line k data written :: rest)
include hf

theorem chunkOf_line : chunkOf (s.cr.get c) = some (k, written, nextChunk data written) := by
  rw [chunkOf, hf]

theorem afterChunk_line :
    afterChunk (s.cr.get c).fifo = if written + 256 < data.length then .line k data (written + 256) :: rest else rest := by
  have hlen := length_nextChunk data written
  simp only [hf, afterChunk]
  by_cases h : written + 256 < data.length
  · rw [if_pos h, if_pos (by omega), show written + (nextChunk data written).length = written + 256 by omega]
  · rw [if_neg h, if_neg (by omega)]

theorem exec_writerTransferComplete (t : Stamp) (ht : s.fmc.transfer = some (.writer c)) :
    exec (.writerTransferComplete t) s = .next
      { s with
        timebase := t, cr := s.cr.set c { s.cr.get c with fifo := afterChunk (s.cr.get c).fifo }
        fmc := { s.fmc.store c k written (nextChunk data written) with transfer := none } } := by
  change execWriterTransferComplete t s = _
  simp only [execWriterTransferComplete, ht, chunkOf_line hf]
  rfl

end

/-! ### Transfers cut short -/

/-- The state once the writer transfer in progress is cut short: the frame memory of `m`, the free value used. -/
def State.cutShort (s : State) (m : FMC) (free : Nat) (transfer : Option Transfer) : State :=
  { s with fmc := { s.fmc with transfer := transfer, mem := m.mem, wordErrors := m.wordErrors }, free := free }

/-- What is left of a transfer once the writer of a camera is cut short. -/
def cutOff (transfer : Option Transfer) (c : Camera) : Option Transfer :=
  if transfer = some (.writer c) then none else transfer

theorem State.cutWriter_of_other {s : State} {c : Camera} (h : s.fmc.transfer ≠ some (.writer c)) : s.cutWriter c = s :=
  if_neg (by simpa using h)

theorem State.cutWriter_of_writer {s : State} {c : Camera} (h : s.fmc.transfer = some (.writer c)) :
    ∃ n m free, s.wroteFirst n m ∧ s.cutWriter c = s.cutShort m free none := by
  simp only [State.cutWriter, h, beq_self_eq_true, if_true]
  cases hc : chunkOf (s.cr.get c) with
  | none => exact ⟨0, s.fmc, s.free, s.wroteFirst_zero, rfl⟩
  | some x =>
    obtain ⟨row, offset, bytes⟩ := x
    refine ⟨8 * Config.cutShortWords s.free, _, s.free + 1, FMC.store_wroteFirst s c row offset bytes _ h hc, ?_⟩
    dsimp only
    rw [FMC.store_eq]
    rfl

/-- The frame memory that a cut of a camera's writer leaves, in the state as it was before the request was taken. -/
theorem State.cutWriter_cases (s : State) (c : Camera) (t : Stamp) (rest : List Frame) :
    ∃ m free,
      ((s.fmc.transfer = some (.writer c) → ∃ n, s.wroteFirst n m) ∧
        (s.fmc.transfer ≠ some (.writer c) →
          m.mem = s.fmc.mem ∧ m.wordErrors = s.fmc.wordErrors ∧ free = s.free)) ∧
      (s.taken t rest).cutWriter c = (s.cutShort m free (cutOff s.fmc.transfer c)).taken t rest := by
  by_cases h : s.fmc.transfer = some (.writer c)
  · obtain ⟨n, m, free, hm, hcut⟩ := State.cutWriter_of_writer (s := s.taken t rest) (c := c) h
    refine ⟨m, free, ⟨fun _ => ⟨n, hm.written, hm.kept, hm.fresh, hm.errors⟩, fun hne => absurd h hne⟩, ?_⟩
    rw [hcut, cutOff, if_pos h]
    rfl
  · refine ⟨s.fmc, s.free, ⟨fun he => absurd he h, fun _ => ⟨rfl, rfl, rfl⟩⟩, ?_⟩
    rw [State.cutWriter_of_other (s := s.taken t rest) h, cutOff, if_neg h]
    rfl

theorem State.cutTransfer_cases (s : State) (t : Stamp) (rest : List Frame) :
    ∃ n m free, s.wroteFirst n m ∧ (s.taken t rest).cutTransfer = (s.cutShort m free none).taken t rest := by
  cases h : s.fmc.transfer with
  | none =>
    refine ⟨0, s.fmc, s.free, s.wroteFirst_zero, ?_⟩
    have hkept : s.cutShort s.fmc s.free none = s := by rw [State.cutShort, ← h]
    rw [hkept, State.cutTransfer, show (s.taken t rest).fmc.transfer = none from h]
  | some x =>
    cases x with
    | writer c =>
      obtain ⟨n, m, free, hm, hcut⟩ := State.cutWriter_of_writer (s := s.taken t rest) (c := c) h
      refine ⟨n, m, free, ⟨hm.written, hm.kept, hm.fresh, hm.errors⟩, ?_⟩
      rw [State.cutTransfer, show (s.taken t rest).fmc.transfer = _ from h]
      exact hcut
    | taps c slot counter no line x u v w h' =>
      refine ⟨0, s.fmc, s.free, s.wroteFirst_zero, ?_⟩
      rw [State.cutTransfer, show (s.taken t rest).fmc.transfer = _ from h]
      rfl

/-! ### The blocks after a reset of the part or of a port -/

theorem Receiver.restart_eq (r : Receiver) :
    r.restart =
      { r with
        qual := if r.qual = .disabled then .disabled else .noSignal
        goodRun := 0, badRun := 0, openFrame := none, prevOpen := none, fifo := [], lastInfo := none
        bprev := none, lastPublished := none, counters := ⟨0, 0, 0, 0, 0, 0, 0, 0, 0, 0⟩ } := by
  rw [Receiver.restart]
  cases r.qual <;> rfl

theorem VS.restart_eq (v : VS) :
    v.restart =
      { v with
        slots := v.slots.map fun x =>
          { x with state := if x.state = .active ∨ x.state = .pending then .ready else x.state }
        selection := .nonePending, pendingBody := 0#4, body := 0#4 } := by
  have hslots : moveSlots (moveSlots v.slots .active .ready) .pending .ready = v.slots.map fun x =>
      { x with state := if x.state = .active ∨ x.state = .pending then .ready else x.state } := by
    refine Quad.ext_get fun i => ?_
    simp only [moveSlots, Quad.get_map, ViewSlot.enter]
    generalize v.slots.get i = x
    obtain ⟨state, nodes⟩ := x
    cases state <;> rfl
  rw [VS.restart, hslots]

theorem HU.unity_eq {h : HU} (hg : h.settings.gmin ≤ h.settings.gmax) :
    h.unity = max h.settings.gmin (min 256 h.settings.gmax) := clampNat_eq hg

theorem ringRelease_eq (r : Ring) :
    ringRelease r = r.map fun x =>
      match x with
      | .filling _ | .ready _ _ _ | .free => SlotRecord.free
      | .held o e n p _ => .held o e n p true := by
  have hcomp : ringRelease r = r.map fun x => SlotRecord.release (if x.isFilling || x.isReady then .free else x) := rfl
  rw [hcomp]
  congr 1
  funext x
  cases x <;> rfl

/-! ### DISABLE_CAMERA and RESET_CAMERA -/

/-- The state once a camera's ring is released, a writer transfer of it cut short. -/
def State.released (s : State) (c : Camera) (m : FMC) (free : Nat) : State :=
  { s with
    fmc :=
      { s.fmc with
        rings := s.fmc.rings.set c (ringRelease (s.fmc.rings.get c)), mem := m.mem, wordErrors := m.wordErrors
        transfer := cutOff s.fmc.transfer c }
    free := free }

theorem State.releaseRing_of_cutWriter {s : State} {c : Camera} {t : Stamp} {rest : List Frame} {m : FMC} {free : Nat}
    (h : (s.taken t rest).cutWriter c = (s.cutShort m free (cutOff s.fmc.transfer c)).taken t rest) :
    (s.taken t rest).releaseRing c = (s.released c m free).taken t rest := by
  rw [State.releaseRing, h]
  rfl

section
variable {s : State} {b : Byte} (hs : s.pu.run.operational = true)
include hs

theorem reqDisableCamera_of_camera {c : Camera} (hb : b.toNat = c.val) :
    reqDisableCamera [b] s = accept ((s.releaseRing c).setReceiver c ((s.releaseRing c).cr.get c).disable) := by
  rw [reqDisableCamera, whenReady_of_operational hs, whenLength_of_length (n := 1) _ rfl,
    withIndex_of_eq _ ((field_one b []).trans hb)]

theorem reqDisableCamera_of_le (hb : 4 ≤ b.toNat) : reqDisableCamera [b] s = refuse s .badValue := by
  rw [reqDisableCamera, whenReady_of_operational hs, whenLength_of_length (n := 1) _ rfl,
    withIndex_of_le _ (hb.trans_eq (field_one b []).symm)]

theorem reqResetCamera_of_camera {c : Camera} (hb : b.toNat = c.val) :
    reqResetCamera [b] s =
      accept ((((s.releaseRing c).setReceiver c ((s.releaseRing c).cr.get c).restart).setHu
        ((s.releaseRing c).hu.resetCamera c)).setFu ((s.releaseRing c).fu.resetCamera c)) := by
  rw [reqResetCamera, whenReady_of_operational hs, whenLength_of_length (n := 1) _ rfl,
    withIndex_of_eq _ ((field_one b []).trans hb)]

theorem reqResetCamera_of_le (hb : 4 ≤ b.toNat) : reqResetCamera [b] s = refuse s .badValue := by
  rw [reqResetCamera, whenReady_of_operational hs, whenLength_of_length (n := 1) _ rfl,
    withIndex_of_le _ (hb.trans_eq (field_one b []).symm)]

end

end Sys2Proof.Machine
namespace Sys2Proof.Proofs
open Sys2Proof Sys2Proof.Machine

/-- Settles O39: the chunk at the head of the FIFO is stored, and where it lies is read off the slot and the row. -/
theorem writerTransfers : Obligations.WriterTransfers := by
  intro s t c k written data rest ht hf
  have hchunk := chunkOf_line hf
  have htake : (nextChunk data written).take 256 = nextChunk data written :=
    List.take_of_length_le (by rw [length_nextChunk]; omega)
  have hwrote := FMC.store_wroteFirst s c k written (nextChunk data written) 256 ht hchunk
  rw [htake] at hwrote
  refine ⟨_, hwrote, ?_, fun i hi => ?_⟩
  · rw [exec_writerTransferComplete hf t ht, afterChunk_line hf, FMC.store_eq]
  · simp only [State.inTransfer, ht, hchunk, hi]
    rfl

/-- Settles O26: the state of power-on, and the two timed steps of memory initialisation. -/
theorem powerOnAndInitialisation : Obligations.PowerOnAndInitialisation := by
  refine ⟨fun s rate1 rate0 => ?_, fun s t start h ht => ?_, fun s t start h ht => ?_⟩
  · refine ⟨_, exec_powerOn s rate1 rate0, rfl, rfl, rfl, rfl, rfl, s.poweredOn_ring rate1 rate0, fun c => ?_, fun v => ?_,
      rfl, rfl, rfl, rfl, s.poweredOn_zone rate1 rate0, rfl, rfl, rfl, fun c => Quad.get_all .., rfl, rfl, rfl, rfl, rfl,
      fun c => ⟨Quad.get_all .., Quad.get_all ..⟩, rfl, rfl, s.poweredOn_marks rate1 rate0, fun k => ?_, rfl,
      fun c => Quad.get_all .., rfl, rfl, rfl, rfl, rfl, rfl, rfl, rfl, rfl, rfl, rfl, rfl, rfl, rfl, rfl⟩
    · rw [State.poweredOn_cr]
      exact ⟨rfl, rfl, rfl, rfl, rfl, rfl, rfl, rfl, rfl, rfl, rfl⟩
    · rw [State.poweredOn_slot]
      exact ⟨rfl, fun _ => rfl⟩
    · cases k <;> rfl
  · exact ⟨exec_trainingComplete_answered h ht, exec_trainingComplete_unanswered h ht⟩
  · exact ⟨[], fun _ => rfl, exec_fillComplete h ht⟩

/-- Settles O29: a transfer is cut short and every block but the link controller is reset. -/
theorem restart : Obligations.Restart := by
  intro s t g rest h
  have served : exec (.restart t g []) s = .next ((reqRestart t [] (s.taken t rest)).finish 0x05#8 g) := serve_taken h
  refine ⟨fun hrun => ?_, fun hrun => ?_, fun hstart hmem hg => ?_⟩
  · rw [served, reqRestart, show (s.taken t rest).pu.run = _ from hrun]
    rfl
  · rw [served, reqRestart, show (s.taken t rest).pu.run = _ from hrun]
    rfl
  · obtain ⟨n, m, free, hm, hcut⟩ := s.cutTransfer_cases t rest
    refine ⟨n, free, m, hm, ?_⟩
    have hreq : reqRestart t [] (s.taken t rest) = accept (s.taken t rest).restart := by
      cases hrun : s.pu.run <;> simp_all [reqRestart, whenLength, State.taken]
    have hreceivers : Receiver.restart = _ := funext Receiver.restart_eq
    rw [served, hreq, State.restart, hcut, hreceivers, VS.restart_eq, HU.restart,
      HU.unity_eq (h := ((s.cutShort m free none).taken t rest).hu) hg]
    rfl

/-- Settles O31: the ring is released, where a writer transfer of the camera is cut short, and the receiver reset. -/
theorem disableAndResetCamera : Obligations.DisableAndResetCamera := by
  intro s t g b rest c hb r ring cutOff left
  obtain ⟨m, free, hcut, hstate⟩ := s.cutWriter_cases c t rest
  have hreleased := State.releaseRing_of_cutWriter hstate
  have hring : ringRelease (s.fmc.rings.get c) = ring := ringRelease_eq _
  refine ⟨fun h => ⟨m, free, hcut, ?_⟩, fun h hg => ⟨m, free, hcut, ?_⟩, fun x hx h => ?_, fun x hx h => ?_⟩
  · refine (serve_taken h.asks).trans ?_
    rw [reqDisableCamera_of_camera (h.operational t) hb, hreleased, State.released, hring]
    rfl
  · refine (serve_taken h.asks).trans ?_
    rw [reqResetCamera_of_camera (h.operational t) hb, hreleased, HU.resetCamera,
      HU.unity_eq (h := ((s.released c m free).taken t rest).hu) hg, Receiver.restart_eq, State.released, hring]
    rfl
  · exact serve_of_refuse h.asks (reqDisableCamera_of_le (h.operational t) hx)
  · exact serve_of_refuse h.asks (reqResetCamera_of_le (h.operational t) hx)

end Sys2Proof.Proofs
end

section
set_option deprecated.oldSectionVars true -- proofs in sequence: their tasks would not fit the thread limit
/-! Stages A to E for one camera: when it contributes to a pixel, and the sample of its four taps (Chapter 1). -/
namespace Sys2Proof.Machine

/-! ### Stages A to D -/

theorem nodeAt_get (nodes : List (Nat × NodeRecord)) (n : Nat) (c : Camera) :
    (nodeAt nodes n).get c = ((keyGet nodes n).map fun r => r.get c).getD ⟨none, 0⟩ := by
  unfold nodeAt
  cases keyGet nodes n with
  | none => exact Quad.get_all ..
  | some r => rfl

theorem corners_eq (nodes : List (Nat × NodeRecord)) (x y : Nat) :
    corners nodes x y =
      ⟨nodeAt nodes (46 * (y / 16) + x / 16), nodeAt nodes (46 * (y / 16) + x / 16 + 1),
        nodeAt nodes (46 * (y / 16) + x / 16 + 46), nodeAt nodes (46 * (y / 16) + x / 16 + 47)⟩ := by
  rw [Nat.mul_comm 46]
  rfl

theorem Quad.mem_toList {α : Type} {q : Quad α} {a : α} : a ∈ q.toList ↔ ∃ n, q.get n = a := by
  rw [Quad.toList, List.mem_cons, List.mem_cons, List.mem_cons, List.mem_singleton]
  constructor
  · rintro (h | h | h | h)
    · exact ⟨0, h.symm⟩
    · exact ⟨1, h.symm⟩
    · exact ⟨2, h.symm⟩
    · exact ⟨3, h.symm⟩
  · rintro ⟨n, rfl⟩
    match n with
    | 0 => exact .inl rfl
    | 1 => exact .inr (.inl rfl)
    | 2 => exact .inr (.inr (.inl rfl))
    | 3 => exact .inr (.inr (.inr rfl))

theorem excluded_iff (zones : Quad Zone) (body : BitVec 4) (i j : Nat) :
    excluded zones body i j = true ↔
      ∃ z : Fin 4, (zones.get z).enabled = true ∧ body.getLsbD (zones.get z).cond.val ≠ (zones.get z).whenClear ∧
        (zones.get z).i0 ≤ i ∧ i ≤ (zones.get z).i1 ∧ (zones.get z).j0 ≤ j ∧ j ≤ (zones.get z).j1 := by
  have hzone (z : Zone) : (zoneActive z body && zoneCovers z i j) = true ↔
      z.enabled = true ∧ body.getLsbD z.cond.val ≠ z.whenClear ∧ z.i0 ≤ i ∧ i ≤ z.i1 ∧ z.j0 ≤ j ∧ j ≤ z.j1 := by
    simp only [zoneActive, zoneCovers, Bool.and_eq_true, bne_iff_ne, decide_eq_true_eq]
    tauto
  simp only [excluded, List.any_eq_true, hzone]
  constructor
  · rintro ⟨z, hz, h⟩
    obtain ⟨n, rfl⟩ := Quad.mem_toList.mp hz
    exact ⟨n, h⟩
  · rintro ⟨n, h⟩
    exact ⟨_, Quad.mem_toList.mpr ⟨n, rfl⟩, h⟩

theorem cornerCoords_eq_some_iff {ns : Quad NodeRecord} {c : Camera} {q : Quad (Int × Int)} :
    cornerCoords ns c = some q ↔
      (ns.c0.get c).coord = some q.c0 ∧ (ns.c1.get c).coord = some q.c1 ∧ (ns.c2.get c).coord = some q.c2 ∧
        (ns.c3.get c).coord = some q.c3 := by
  unfold cornerCoords
  split
  · rename_i h0 h1 h2 h3
    rw [h0, h1, h2, h3]
    obtain ⟨q0, q1, q2, q3⟩ := q
    simp
  · rename_i hno
    exact iff_of_false (by simp) fun ⟨h0, h1, h2, h3⟩ => hno _ _ _ _ h0 h1 h2 h3

/-- The mean of four corner values under the corner factors, rounded half up (R9). -/
def cornerMean (dx dy a00 a10 a01 a11 : Int) : Int :=
  ((16 - dx) * (16 - dy) * a00 + dx * (16 - dy) * a10 + (16 - dx) * dy * a01 + dx * dy * a11 + 128) / 256

theorem interpolate_eq {dx dy : Nat} (hx : dx ≤ 16) (hy : dy ≤ 16) (v : Quad Int) :
    interpolate (cornerFactors dx dy) v = cornerMean dx dy v.c0 v.c1 v.c2 v.c3 := by
  simp only [interpolate, cornerFactors, cornerMean]
  push_cast [Nat.cast_sub hx, Nat.cast_sub hy]
  rfl

theorem interpolateWeight_eq {dx dy : Nat} (hx : dx ≤ 16) (hy : dy ≤ 16) (w : Quad Nat) :
    (interpolateWeight (cornerFactors dx dy) w : Int) = cornerMean dx dy w.c0 w.c1 w.c2 w.c3 := by
  simp only [interpolateWeight, cornerFactors, cornerMean]
  push_cast [Nat.cast_sub hx, Nat.cast_sub hy]
  rfl

theorem cornerMean_mem {dx dy lo hi a b d e : Int} (hx : 0 ≤ dx) (hx' : dx ≤ 16) (hy : 0 ≤ dy) (hy' : dy ≤ 16)
    (ha : lo ≤ a) (ha' : a ≤ hi) (hb : lo ≤ b) (hb' : b ≤ hi) (hd : lo ≤ d) (hd' : d ≤ hi) (he : lo ≤ e) (he' : e ≤ hi) :
    lo ≤ cornerMean dx dy a b d e ∧ cornerMean dx dy a b d e ≤ hi := by
  have k00 : 0 ≤ (16 - dx) * (16 - dy) := mul_nonneg (by omega) (by omega)
  have k10 : 0 ≤ dx * (16 - dy) := mul_nonneg hx (by omega)
  have k01 : 0 ≤ (16 - dx) * dy := mul_nonneg (by omega) hy
  have k11 : 0 ≤ dx * dy := mul_nonneg hx hy
  have hlo : 256 * lo ≤ (16 - dx) * (16 - dy) * a + dx * (16 - dy) * b + (16 - dx) * dy * d + dx * dy * e := by
    calc 256 * lo = (16 - dx) * (16 - dy) * lo + dx * (16 - dy) * lo + (16 - dx) * dy * lo + dx * dy * lo := by ring
      _ ≤ _ := by gcongr
  have hhi : (16 - dx) * (16 - dy) * a + dx * (16 - dy) * b + (16 - dx) * dy * d + dx * dy * e ≤ 256 * hi := by
    calc _ ≤ (16 - dx) * (16 - dy) * hi + dx * (16 - dy) * hi + (16 - dx) * dy * hi + dx * dy * hi := by gcongr
      _ = 256 * hi := by ring
  unfold cornerMean
  omega

theorem validSample_iff (u v : Int) (w h : Nat) :
    validSample u v w h = true ↔ (0 ≤ u ∧ u ≤ 64 * ((w : Int) - 1)) ∧ 0 ≤ v ∧ v ≤ 64 * ((h : Int) - 1) := by
  simp only [validSample, Bool.and_eq_true, decide_eq_true_eq]
  tauto

theorem contribution_eq_some_iff {nodes : List (Nat × NodeRecord)} {set : CompSet} {cut : Quad Bool} {x y : Nat}
    {c : Camera} {w : Nat} {u v : Int} {k : Taken} :
    contribution nodes set cut x y c = some ⟨c, w, u, v, k⟩ ↔
      set.cams.get c = .taken k ∧ cut.get c = false ∧
        excluded (set.zones.get c) set.body (x / 16) (y / 16) = false ∧
        (∃ q, cornerCoords (corners nodes x y) c = some q ∧
          interpolate (cornerFactors (x % 16) (y % 16)) (q.map Prod.fst) = u ∧
          interpolate (cornerFactors (x % 16) (y % 16)) (q.map Prod.snd) = v) ∧
        interpolateWeight (cornerFactors (x % 16) (y % 16)) ((corners nodes x y).map fun n => (n.get c).weight) = w ∧
        validSample u v k.width k.height = true ∧ 0 < w := by
  constructor
  · intro h
    unfold contribution at h
    split at h
    · rename_i k' hk
      split at h
      · cases h
      · rename_i hopen
        rw [Bool.or_eq_true, not_or, Bool.not_eq_true, Bool.not_eq_true] at hopen
        split at h
        · cases h
        · rename_i q hq
          dsimp only at h
          split at h
          · rename_i hvalid
            cases h
            rw [Bool.and_eq_true, decide_eq_true_eq] at hvalid
            exact ⟨hk, hopen.1, hopen.2, ⟨q, hq, rfl, rfl⟩, rfl, hvalid⟩
          · cases h
    · cases h
  · rintro ⟨hk, hcut, hexc, ⟨q, hq, rfl, rfl⟩, rfl, hvalid, hw⟩
    simp only [contribution, hk, hcut, hexc, hq, hvalid, hw, Bool.or_self, Bool.false_eq_true, decide_true, Bool.and_self,
      if_true, if_false]

/-! ### Stage E -/

/-- The mean of four taps under the tap factors, rounded half up (R14). -/
def tapMean (fu fv p0 p1 p2 p3 : Nat) : Nat :=
  ((64 - fu) * (64 - fv) * p0 + fu * (64 - fv) * p1 + (64 - fu) * fv * p2 + fu * fv * p3 + 2048) / 4096

theorem tapMean_le {fu fv p0 p1 p2 p3 : Nat} (hu : fu ≤ 64) (hv : fv ≤ 64) (h0 : p0 ≤ 255) (h1 : p1 ≤ 255)
    (h2 : p2 ≤ 255) (h3 : p3 ≤ 255) : tapMean fu fv p0 p1 p2 p3 ≤ 255 := by
  have hfactors : (64 - fu) * (64 - fv) + fu * (64 - fv) + (64 - fu) * fv + fu * fv = 4096 := by
    calc (64 - fu) * (64 - fv) + fu * (64 - fv) + (64 - fu) * fv + fu * fv
        = ((64 - fu) + fu) * ((64 - fv) + fv) := by ring
      _ = 4096 := by rw [Nat.sub_add_cancel hu, Nat.sub_add_cancel hv]
  have hsum : (64 - fu) * (64 - fv) * p0 + fu * (64 - fv) * p1 + (64 - fu) * fv * p2 + fu * fv * p3 ≤ 4096 * 255 := by
    calc _ ≤ (64 - fu) * (64 - fv) * 255 + fu * (64 - fv) * 255 + (64 - fu) * fv * 255 + fu * fv * 255 := by gcongr
      _ = ((64 - fu) * (64 - fv) + fu * (64 - fv) + (64 - fu) * fv + fu * fv) * 255 := by ring
      _ = 4096 * 255 := by rw [hfactors]
  unfold tapMean
  omega

theorem tapMean_zero (p0 p1 p2 p3 : Nat) : tapMean 0 0 p0 p1 p2 p3 = p0 := by
  simp only [tapMean, Nat.zero_mul, Nat.mul_zero]
  omega

theorem tapFactors_nat (u v : Nat) :
    tapFactors u v =
      ⟨(64 - u % 64) * (64 - v % 64), u % 64 * (64 - v % 64), (64 - u % 64) * (v % 64), u % 64 * (v % 64)⟩ := rfl

theorem bilinear_toNat (u v : Nat) (p : Quad Byte) :
    (bilinear (tapFactors u v) p).toNat = tapMean (u % 64) (v % 64) p.c0.toNat p.c1.toNat p.c2.toNat p.c3.toNat := by
  rw [tapFactors_nat, bilinear, BitVec.toNat_ofNat, Nat.mod_eq_of_lt]
  · rfl
  · exact Nat.lt_succ_of_le (tapMean_le (by omega) (by omega) (by omega) (by omega) (by omega) (by omega))

theorem taps_nat (u v w h : Nat) :
    taps u v w h =
      ⟨(u / 64, v / 64), (min (u / 64 + 1) (w - 1), v / 64), (u / 64, min (v / 64 + 1) (h - 1)),
        (min (u / 64 + 1) (w - 1), min (v / 64 + 1) (h - 1))⟩ := rfl

section
variable (mem : List Host.Cell) (c : Camera) (slot : Fin 3)

/-- The first byte of a row of a slot (R92). -/
theorem rowBase_eq (l : Nat) : rowBase c slot l = (c.val * 3 + slot.val) * 4915200 + l * 3840 := rfl

theorem tapValue_y (p l : Nat) :
    (tapValue mem c slot (p, l)).y = memRead mem ((c.val * 3 + slot.val) * 4915200 + l * 3840 + 2 * p + 1) := by
  have haddr : pairAddress c slot (p, l) + (if p % 2 = 0 then 1 else 3) =
      (c.val * 3 + slot.val) * 4915200 + l * 3840 + 2 * p + 1 := by
    rw [pairAddress, rowBase_eq]
    split <;> omega
  exact congrArg (memRead mem) haddr

theorem tapValue_cb (p l : Nat) :
    (tapValue mem c slot (p, l)).cb = memRead mem ((c.val * 3 + slot.val) * 4915200 + l * 3840 + 4 * (p / 2)) := rfl

theorem tapValue_cr (p l : Nat) :
    (tapValue mem c slot (p, l)).cr = memRead mem ((c.val * 3 + slot.val) * 4915200 + l * 3840 + 4 * (p / 2) + 2) := rfl

/-- Each channel of a sample is the mean of that channel over the four taps. -/
theorem sampleAt_toNat (u v w h : Nat) (f : Yuv → Byte) :
    (bilinear (tapFactors u v) (((taps u v w h).map (tapValue mem c slot)).map f)).toNat =
      tapMean (u % 64) (v % 64) (f (tapValue mem c slot (u / 64, v / 64))).toNat
        (f (tapValue mem c slot (min (u / 64 + 1) (w - 1), v / 64))).toNat
        (f (tapValue mem c slot (u / 64, min (v / 64 + 1) (h - 1)))).toNat
        (f (tapValue mem c slot (min (u / 64 + 1) (w - 1), min (v / 64 + 1) (h - 1)))).toNat := by
  rw [bilinear_toNat, taps_nat]
  rfl

end

end Sys2Proof.Machine
namespace Sys2Proof.Proofs
open Sys2Proof Sys2Proof.Machine

/-- Settles O52: the stages as conditions, and a mean of corner values lies between the least and the greatest of them,
since the corner factors are not negative and add up to 256. -/
theorem pixelContribution : Obligations.PixelContribution := by
  intro nodes set cut x y c w u v k i j dx dy mean at' covered
  have hdx : x % 16 ≤ 16 := (Nat.mod_lt x (by decide)).le
  have hdy : y % 16 ≤ 16 := (Nat.mod_lt y (by decide)).le
  have hmean (a b d e : Int) : mean a b d e = cornerMean (x % 16 : Nat) (y % 16 : Nat) a b d e := rfl
  have hat (n : Nat) : at' n = (nodeAt nodes n).get c := (nodeAt_get nodes n c).symm
  have hcovered : ¬ covered ↔ excluded (set.zones.get c) set.body i j = false := by
    rw [← Bool.not_eq_true, excluded_iff]
  refine ⟨?_, fun lo hi a b d e ha ha' hb hb' hd hd' he he' => ?_⟩
  · rw [contribution_eq_some_iff, hcovered, validSample_iff, corners_eq]
    simp only [cornerCoords_eq_some_iff, interpolate_eq hdx hdy, hat, hmean]
    refine and_congr_right' (and_congr_right' (and_congr_right' (and_congr ⟨?_, ?_⟩ (and_congr ?_ and_assoc))))
    · rintro ⟨q, ⟨h0, h1, h2, h3⟩, hu, hv⟩
      exact ⟨q.c0, q.c1, q.c2, q.c3, h0, h1, h2, h3, hu.symm, hv.symm⟩
    · rintro ⟨q0, q1, q2, q3, h0, h1, h2, h3, hu, hv⟩
      exact ⟨⟨q0, q1, q2, q3⟩, ⟨h0, h1, h2, h3⟩, hu.symm, hv.symm⟩
    · rw [eq_comm, ← Int.natCast_inj, interpolateWeight_eq hdx hdy]
      rfl
  · rw [hmean]
    exact cornerMean_mem (by omega) (by omega) (by omega) (by omega) ha ha' hb hb' hd hd' he he'

/-- Settles O53: no coordinate in the frame is negative, the tap factors add up to 4,096, so no channel is truncated. -/
theorem sampleOfTaps : Obligations.SampleOfTaps := by
  intro mem c slot u v w h hu hu' hv hv'
  obtain ⟨n, rfl⟩ := Int.eq_ofNat_of_zero_le hu
  obtain ⟨m, rfl⟩ := Int.eq_ofNat_of_zero_le hv
  intro iu fu iv fv row luma blue red mean
  have hy : (sampleAt mem c slot n m w h).y.toNat = mean luma := by
    refine (sampleAt_toNat mem c slot n m w h Yuv.y).trans ?_
    simp only [tapValue_y]
    rfl
  have hcb : (sampleAt mem c slot n m w h).cb.toNat = mean blue := sampleAt_toNat mem c slot n m w h Yuv.cb
  have hcr : (sampleAt mem c slot n m w h).cr.toNat = mean red := sampleAt_toNat mem c slot n m w h Yuv.cr
  have hwhole (f : Nat → Nat → Nat) (hfu : fu = 0) (hfv : fv = 0) : mean f = f iu iv := by
    unfold mean
    rw [hfu, hfv]
    exact tapMean_zero ..
  refine ⟨?_, hy, hcb, hcr, fun hfu hfv => ?_⟩
  · unfold iu fu iv fv
    rw [Int.toNat_natCast, Int.toNat_natCast]
    omega
  · rw [hy, hcb, hcr, hwhole _ hfu hfv, hwhole _ hfu hfv, hwhole _ hfu hfv]
    exact ⟨rfl, rfl, rfl⟩

end Sys2Proof.Proofs
end
